-- ==== Sys2Proof/Word.lean ====
section
/-! DEFINITION. The widths of the block's values (00_scope.md R6, R7). All values are unsigned (R8). -/

namespace Sys2Proof

/-- One byte of the stream, and every 8-bit field (`BYTE_W`, `ENC_FIELD_W`, `GROUP_W` of R6). -/
abbrev Byte := BitVec 8

/-- A 7-bit data value (`DATA_W` of R6). -/
abbrev Septet := BitVec 7

/-- Four bits: a channel or the kind nibble of a status byte (`CHANNEL_W`, `KIND_W` of R6, R12). -/
abbrev Nibble := BitVec 4

end Sys2Proof
end

