-- ==== Sys2Proof/Config.lean ====
section
/-! DEFINITION. What the implementation fixes: the parameters of 00_scope.md R6 that the spec leaves OPEN.

`GROUP` is the only open parameter this model has. `CV_DATA2_FILL` is not needed (a `data2` that is not populated is
absent, R91), `SYSEX_CAP` is unbounded (R51) and `DIAG` is absent (R250). -/

namespace Sys2Proof

/-- `GROUP` (R6, R28, 92 D6): the value on `cfg_group` when a decoder instance is constructed. OPEN in the spec, so it has
no value here either. DESIGN CHOICE (log entry 1), safe: nothing can be proved of its value. -/
opaque Config.group : Byte

end Sys2Proof
end

