-- ==== Sys2Proof/Machine/Operands.lean ====
section
/-! DEFINITION. Operand forms: the bit fields of a byte (00_scope.md R7), the two byte formats (30_encoding.md R60) and the
widening of a data value into an event field (R70). No operand is shifted, scaled, joined or sign-extended. -/

namespace Sys2Proof.Machine

/-- `b[7:4]`, which the source writes `b >> 4` (R7). -/
def highNibble (b : Byte) : Nibble := b.extractLsb' 4 4

/-- `b[3:0]`, which the source writes `b & 0xF` (R7). -/
def lowNibble (b : Byte) : Nibble := b.extractLsb' 0 4

/-- Format `D`: bit 7 is 0 (R60, R7). -/
def isData (b : Byte) : Bool := b < 0x80#8

/-- The realtime range `b ≥ 0xF8` (R62, R140). -/
def isRealtime (b : Byte) : Bool := 0xF8#8 ≤ b

/-- The 7-bit value of a data byte, `v = b[6:0]` (R60, R150). -/
def dataValue (b : Byte) : Septet := b.extractLsb' 0 7

/-- `zext_8`: a 7-bit data value carried in an 8-bit field whose bit 7 is 0 (R6 `DATA_W`, R9). -/
def dataField (v : Septet) : Byte := v.setWidth 8

/-- A channel operand as the 8-bit argument of `status(kind, ch)` (R100). -/
def channelField (c : Nibble) : Byte := c.setWidth 8

end Sys2Proof.Machine
end

