-- ==== Sys2Proof/Machine/Event.lean ====
section
/-! DEFINITION. The Event Model (40_event_model.md): the seven event variants, the kind table R98, the realtime code table
R105, the query `kindOf` (R99), `status(kind, ch)` (R100) and validity (R104). -/

namespace Sys2Proof.Machine

/-- The channel-voice kinds (R98). -/
inductive CvKind where
  | noteOff | noteOn | polyPressure | controlChange | programChange | channelPressure | pitchBend
  deriving DecidableEq, Repr

/-- The number of data bytes a channel-voice message needs, 1 or 2 (R98, R22 `need`). -/
inductive DataCount where
  | one | two
  deriving DecidableEq, Repr

/-- The realtime kinds (R97). The names carry `rt` where the spec writes `Realtime(Start)` and so on, to keep them apart
from the sysex kinds. -/
inductive RtKind where
  | timingClock | rtStart | rtContinue | rtStop | activeSensing | rtReset
  deriving DecidableEq, Repr

/-- The sysex kinds `Complete`, `Start`, `Continue`, `End` (R96). -/
inductive SysexKind where
  | sxComplete | sxStart | sxContinue | sxEnd
  deriving DecidableEq, Repr

/-- An event (R90 to R97). Every data field is 8 bits wide: the encoder takes any 8-bit value (R138), the decoder produces
values below 0x80 only (R101). `data2` is absent for a one-data-byte kind (R91). Equality is structural (R103). -/
inductive Event where
  | channelVoice (group status data1 : Byte) (data2 : Option Byte)
  | quarterFrame (group value : Byte)
  | songPosition (group lsb msb : Byte)
  | songSelect (group number : Byte)
  | tuneRequest (group : Byte)
  | sysex (group : Byte) (kind : SysexKind) (data : List Byte)
  | realtime (group : Byte) (kind : RtKind)
  deriving DecidableEq, Repr

/-- The kind nibble, `status >> 4` (R98). -/
def CvKind.nibble : CvKind → Nibble
  | .noteOff => 0x8#4
  | .noteOn => 0x9#4
  | .polyPressure => 0xA#4
  | .controlChange => 0xB#4
  | .programChange => 0xC#4
  | .channelPressure => 0xD#4
  | .pitchBend => 0xE#4

/-- The data-byte count of a kind, the column `need` of R98. -/
def CvKind.need : CvKind → DataCount
  | .noteOff => .two
  | .noteOn => .two
  | .polyPressure => .two
  | .controlChange => .two
  | .programChange => .one
  | .channelPressure => .one
  | .pitchBend => .two

/-- `kindOf(status)` (R99); `none` is the answer "unknown". -/
def kindOf (status : Byte) : Option CvKind :=
  match (highNibble status).toNat with
  | 0x8 => some .noteOff
  | 0x9 => some .noteOn
  | 0xA => some .polyPressure
  | 0xB => some .controlChange
  | 0xC => some .programChange
  | 0xD => some .channelPressure
  | 0xE => some .pitchBend
  | _ => none

/-- `status(kind, ch) = (nibble(kind) << 4) | (ch & 0xF)` (R100): only the low four bits of `ch` are used. -/
def status (k : CvKind) (ch : Byte) : Byte := (k.nibble.setWidth 8 <<< 4) ||| (ch &&& 0x0F#8)

/-- The realtime code table, kind to byte (R105). -/
def RtKind.code : RtKind → Byte
  | .timingClock => 0xF8#8
  | .rtStart => 0xFA#8
  | .rtContinue => 0xFB#8
  | .rtStop => 0xFC#8
  | .activeSensing => 0xFE#8
  | .rtReset => 0xFF#8

/-- The realtime code table, byte to kind (R105); `none` for a byte that is not in the table. -/
def realtimeOf (b : Byte) : Option RtKind :=
  match b.toNat with
  | 0xF8 => some .timingClock
  | 0xFA => some .rtStart
  | 0xFB => some .rtContinue
  | 0xFC => some .rtStop
  | 0xFE => some .activeSensing
  | 0xFF => some .rtReset
  | _ => none

/-- Every variant carries `group` (R102). -/
def Event.group : Event → Byte
  | .channelVoice g _ _ _ => g
  | .quarterFrame g _ => g
  | .songPosition g _ _ => g
  | .songSelect g _ => g
  | .tuneRequest g => g
  | .sysex g _ _ => g
  | .realtime g _ => g

/-- The same event with another `group`. -/
def Event.withGroup (g : Byte) : Event → Event
  | .channelVoice _ s a b => .channelVoice g s a b
  | .quarterFrame _ v => .quarterFrame g v
  | .songPosition _ l m => .songPosition g l m
  | .songSelect _ n => .songSelect g n
  | .tuneRequest _ => .tuneRequest g
  | .sysex _ k d => .sysex g k d
  | .realtime _ k => .realtime g k

/-- Whether an event is a `Realtime` event (R97). -/
def Event.isRealtime : Event → Bool
  | .channelVoice _ _ _ _ => false
  | .quarterFrame _ _ => false
  | .songPosition _ _ _ => false
  | .songSelect _ _ => false
  | .tuneRequest _ => false
  | .sysex _ _ _ => false
  | .realtime _ _ => true

/-- A *valid* event (R104): the kind is known, every data field is a 7-bit value, and `data2` is present exactly for the
two-data-byte kinds. `group` does not enter. -/
def Event.valid : Event → Bool
  | .channelVoice _ s a b =>
    match kindOf s with
    | none => false
    | some k =>
      isData a &&
        match k.need, b with
        | .one, none => true
        | .one, some _ => false
        | .two, none => false
        | .two, some d => isData d
  | .quarterFrame _ v => isData v
  | .songPosition _ l m => isData l && isData m
  | .songSelect _ n => isData n
  | .tuneRequest _ => true
  | .sysex _ _ d => d.all isData
  | .realtime _ _ => true

/-- What every event the decoder emits satisfies beyond validity (R101): a noteOn never has `data2 = 0`, and a sysex
`Continue` or `End` has at least one data byte. -/
def Event.emittable : Event → Bool
  | .channelVoice _ s _ b => !(kindOf s == some .noteOn && b == some 0x00#8)
  | .quarterFrame _ _ => true
  | .songPosition _ _ _ => true
  | .songSelect _ _ => true
  | .tuneRequest _ => true
  | .sysex _ .sxComplete _ => true
  | .sysex _ .sxStart _ => true
  | .sysex _ .sxContinue d => !d.isEmpty
  | .sysex _ .sxEnd d => !d.isEmpty
  | .realtime _ _ => true

end Sys2Proof.Machine
end

