-- ==== Sys2Proof/Machine/State.lean ====
section
/-! DEFINITION. The machine's state as plain data: the builder slot (10_state.md R20 to R26), the cursor (R27), the
configuration input (R28), the byte source (20_memory.md R40, R41), the ports (R31) as transcripts and an agenda, the reasons
a step can stop, and reset (R34). -/

namespace Sys2Proof.Machine

/-- Which message a single-field system-common builder completes: `QF` by 0xF1, `SS` by 0xF3 (R26). -/
inductive Which where
  | qf | ss
  deriving DecidableEq, Repr

/-- `need`, `have` and `d1` of a channel-voice builder (R22). `one`: `need = 1`, and `have` is always 0. `two d1`: `need = 2`;
`d1` is absent while `have = 0` and is the first data byte while `have = 1`. DEDUCED (log entry 11): R22 defines `d1` only
while `have = 1`, and fixes no bits (R21). -/
inductive Progress where
  | one
  | two (d1 : Option Septet)
  deriving DecidableEq, Repr

/-- The four builders (R20). A builder slot with none of them is `B.tag = NONE` (R21). -/
inductive Builder where
  /-- `CV(status, need, have, d1)` (R22, R23) -/
  | cv (status : Byte) (progress : Progress)
  /-- `SX(explicit, data)` (R24) -/
  | sx (explicit : Bool) (data : List Byte)
  /-- `SP(have, lsb)`: `lsb` is absent while `have = 0` (R25) -/
  | sp (lsb : Option Septet)
  /-- `SC(which)` (R26) -/
  | sc (which : Which)
  deriving DecidableEq, Repr

/-- The byte source as cells (index, byte), indexes strictly rising; an index that is not listed holds no byte (R40, R52). -/
abbrev Memory := List Host.Cell

/-- The three answers of a pull (R210). -/
inductive PullResult where
  | event (e : Event)
  | pending
  | exhausted
  deriving DecidableEq, Repr

/-- One turn of the agenda: a transaction of the outside world at a port of R31, or the decoder's own turn. DESIGN CHOICE (log
entry 2): the source gives no order between the collaborators, so the order is data. -/
inductive Turn where
  /-- transport-in appends a byte to the source (R46) -/
  | present (b : Byte)
  /-- transport-in signals END (R41, R44) -/
  | finish
  /-- the consumer asks for the next event (R210); it waits while a pull is in progress (log entry 3) -/
  | pull
  /-- the host resets the decoder over a new source (R260) -/
  | reset
  /-- an event is given to the encoder (R110) -/
  | encode (e : Event)
  /-- the decoder runs one iteration, if a pull is in progress (R211) -/
  | iterate
  deriving DecidableEq, Repr

/-- The machine's state. -/
structure State where
  /-- `B`, the builder slot; `none` is `NONE` (R20, R21) -/
  slot : Option Builder
  /-- the cursor position (R27) -/
  pos : Nat
  /-- the bytes presented so far on the current source (R40) -/
  src : Memory
  /-- the transport has signalled END (R41); sticky until reset (R44) -/
  ended : Bool
  /-- `cfg_group` (R28) -/
  cfgGroup : Byte
  /-- a pull has been accepted and is not answered yet (R210, R211) -/
  pulling : Bool
  /-- the transcript of the `out` port, oldest answer first (R31) -/
  out : List PullResult
  /-- the transcript of the `enc_bytes` port, oldest first (R31) -/
  encOut : List (List Byte)
  /-- the turns still to come, next first -/
  agenda : List Turn
  deriving DecidableEq, Repr

/-- Faults: none. The decoder has no fatal condition (R230) and the encoder no error path (R235), so nothing raises one. -/
inductive Fault
  deriving DecidableEq, Repr

/-- Refusals: what the spec puts outside the model's domain. -/
inductive Refusal where
  /-- raised by `exec` for an instruction that has no meaning yet; safe -/
  | notModelled (mnemonic : String)
  /-- raised by the selection of an encoder operation for a `ChannelVoice` event with `kindOf(status) = unknown` (R136); safe -/
  | encoderUnknownKind (status : Byte)
  /-- raised by the selection of an encoder operation for a two-data-byte kind whose `data2` is `none` (R136); safe -/
  | encoderNoData2 (status : Byte)
  /-- raised when the transport presents a byte after END, which the spec puts outside the model (R46, 92 D19, 93 U14); safe -/
  | byteAfterEnd (b : Byte)
  deriving DecidableEq, Repr

/-- What a step or a meaning answers. -/
abbrev Result := Host.Outcome State Fault Refusal

/-- Reset (R34, R260): the slot is `NONE`, the cursor is at the first byte of a new source, `cfg_group` has the value `GROUP`.
DESIGN CHOICE (log entries 1, 2, 5, 8): nothing is presented or asked yet. -/
def State.reset : State where
  slot := none
  pos := 0
  src := []
  ended := false
  cfgGroup := Config.group
  pulling := false
  out := []
  encOut := []
  agenda := []

end Sys2Proof.Machine
end

