-- ==== Sys2Proof/Machine/Ops.lean ====
section
/-! DEFINITION. The named operations: the byte source, `Peek()`, `Consume()` (20_memory.md), slot writes, answering a pull,
handing over an encoding, and what a condition does to the state (60_exceptions.md R238). -/

namespace Sys2Proof.Machine

/-! ## The byte source -/

/-- The canonical form: indexes strictly rising (so none listed twice). No entry can equal what an unlisted index reads as,
since that is no byte at all. -/
def Memory.wf : Memory → Bool
  | [] => true
  | [_] => true
  | c :: d :: m => decide (c.1 < d.1) && Memory.wf (d :: m)

/-- The byte at an index; `none` where no byte has been presented (R40). -/
def Memory.read : Memory → Nat → Option Byte
  | [], _ => none
  | c :: m, a => if c.1 = a then some c.2 else Memory.read m a

/-- Put a byte at an index, in order. -/
def Memory.write : Memory → Nat → Byte → Memory
  | [], a, b => [(a, b)]
  | c :: m, a, b =>
    if a < c.1 then (a, b) :: c :: m
    else if a = c.1 then (a, b) :: m
    else c :: Memory.write m a b

/-- The index after the last byte presented: where the transport appends (R46). -/
def Memory.next : Memory → Nat
  | [] => 0
  | [c] => c.1 + 1
  | _ :: d :: m => Memory.next (d :: m)

/-- The transport's append of one byte (R46). -/
def Memory.append (m : Memory) (b : Byte) : Memory := Memory.write m (Memory.next m) b

/-- The cells of a byte sequence whose first byte has the given index. -/
def Memory.cellsFrom : Nat → List Byte → Memory
  | _, [] => []
  | a, b :: bs => (a, b) :: Memory.cellsFrom (a + 1) bs

/-- A byte sequence as a source, indexed from 0 (R52). -/
def Memory.ofBytes (bs : List Byte) : Memory := Memory.cellsFrom 0 bs

/-- The bytes of a source, in index order. -/
def Memory.bytes (m : Memory) : List Byte := m.map Prod.snd

/-! ## The input boundary -/

/-- The three answers of `Peek()` (R41). -/
inductive Peek where
  | byte (b : Byte)
  | empty
  | ended
  deriving DecidableEq, Repr

/-- `Peek()` (R41, R42): it reads the byte at `pos`; with none there, END if the transport has signalled it, else EMPTY. -/
def peek (s : State) : Peek :=
  match s.src.read s.pos with
  | some b => .byte b
  | none => if s.ended then .ended else .empty

/-- `Consume()` (R43): `pos <- pos + 1`. -/
def consume (s : State) : State := { s with pos := s.pos + 1 }

/-! ## The slot and the output -/

/-- `B <- v` (R9). -/
def setSlot (v : Option Builder) (s : State) : State := { s with slot := v }

/-- The pull in progress returns this answer and ends (R210). -/
def answer (r : PullResult) (s : State) : State := { s with out := s.out ++ [r], pulling := false }

/-- `emit e`: the pull returns `EVENT(e)` (R213). -/
def emit (e : Event) (s : State) : State := answer (.event e) s

/-- The encoder hands over one byte sequence (R111). -/
def deliver (bytes : List Byte) (s : State) : State := { s with encOut := s.encOut ++ [bytes] }

/-! ## Conditions

TRUNCATION and SYSEX_INTERRUPTION (R231, R233) have one effect in common: the slot becomes `NONE` and the byte that caused it
is not consumed. Nothing is saved and control goes nowhere (R238). There is no return operation: recovery is the next
iteration, which looks at the same byte with no builder (R239). -/

/-- What TRUNCATION does: the partial message is thrown away, no `Consume()` (R231). -/
def discardBuilder (s : State) : State := setSlot none s

/-- What SYSEX_INTERRUPTION does: the fragment is emitted, no `Consume()` (R233). -/
def interruptSysex (e : Event) (s : State) : State := emit e (setSlot none s)

/-- What RESERVED_BYTE does, and UNKNOWN_KIND: the byte is consumed and nothing else changes (R232, R234). -/
def dropByte (s : State) : State := consume s

end Sys2Proof.Machine
end

