-- ==== Sys2Proof/Machine/Builders.lean ====
section
/-! DEFINITION. Per-builder byte consumption (43_decoder_builders.md): `feed` and its four results (R180), and what the caller
does with each (42_decoder_classify.md R167). -/

namespace Sys2Proof.Machine

/-- What a builder is fed: a byte below 0xF8, or "no byte" at end of input (R180). -/
inductive Fed where
  | byte (b : Byte)
  | noByte
  deriving DecidableEq, Repr

/-- The four results of `feed` (R180). -/
inductive FeedResult where
  | keep (B : Builder)
  | completed (e : Event) (slot : Option Builder)
  | failed
  | interrupted (e : Event)
  deriving DecidableEq, Repr

/-- `need` of a channel-voice builder (R22). -/
def Progress.need : Progress → DataCount
  | .one => .one
  | .two _ => .two

/-- `have`: the number of data bytes collected, 0 or 1 (R22). -/
def Progress.collected : Progress → Nat
  | .one => 0
  | .two none => 0
  | .two (some _) => 1

/-- A channel-voice builder's progress with no data collected: `have = 0` (R151, R187). -/
def Progress.fresh : DataCount → Progress
  | .one => .one
  | .two => .two none

/-- The event of a channel-voice message whose second data byte arrives (R185, R186): a noteOn whose second byte is exactly 0
becomes a noteOff on the same channel with velocity 0x40; otherwise the fields are as given. -/
def secondByteEvent (g s : Byte) (d1 : Septet) (b : Byte) : Event :=
  if highNibble s = 0x9#4 ∧ b = 0x00#8 then
    .channelVoice g (0x80#8 ||| (s &&& 0x0F#8)) (dataField d1) (some 0x40#8)
  else .channelVoice g s (dataField d1) (some b)

/-- A channel-voice builder takes a data byte (R183 to R187): after completion the slot keeps the status with no data. -/
def takeChannelVoice (g s : Byte) (p : Progress) (b : Byte) : FeedResult :=
  match p with
  | .one => .completed (.channelVoice g s b none) (some (.cv s .one))
  | .two none => .keep (.cv s (.two (some (dataValue b))))
  | .two (some d1) => .completed (secondByteEvent g s d1 b) (some (.cv s (.two none)))

/-- A song-position builder takes a data byte (R192, R193). -/
def takeSongPosition (g : Byte) (lsb : Option Septet) (b : Byte) : FeedResult :=
  match lsb with
  | none => .keep (.sp (some (dataValue b)))
  | some l => .completed (.songPosition g (dataField l) b) none

/-- A single-field builder takes a data byte (R196). -/
def takeSingleField (g : Byte) (w : Which) (b : Byte) : FeedResult :=
  match w with
  | .qf => .completed (.quarterFrame g b) none
  | .ss => .completed (.songSelect g b) none

/-- The kind of a fragment that ends with 0xF7 (R189). -/
def closedKind (x : Bool) : SysexKind := if x then .sxComplete else .sxEnd

/-- The kind of a fragment that ends without it (R190, R191). -/
def openKind (x : Bool) : SysexKind := if x then .sxStart else .sxContinue

/-- A builder is fed a byte `b < 0xF8` (R181, R183 to R190, R192 to R194, R196, R197; table of R200). A byte ≥ 0xF8 is never
fed (R199); DESIGN CHOICE (log entry 12): the function is total and treats one as it treats 0x80, and no run reaches that. -/
def feedByte (g : Byte) (B : Builder) (b : Byte) : FeedResult :=
  if isData b then
    match B with
    | .cv s p => takeChannelVoice g s p b
    | .sx x data => .keep (.sx x (data ++ [b]))
    | .sp lsb => takeSongPosition g lsb b
    | .sc w => takeSingleField g w b
  else
    match B with
    | .cv _ _ => .failed
    | .sx x data =>
      if b = 0xF7#8 then .completed (.sysex g (closedKind x) data) none
      else .interrupted (.sysex g (openKind x) data)
    | .sp _ => .failed
    | .sc _ => .failed

/-- A builder is fed end of input (R182, R191, R195, R198). -/
def feedEnd (g : Byte) (B : Builder) : FeedResult :=
  match B with
  | .cv _ _ => .failed
  | .sx x data => .interrupted (.sysex g (openKind x) data)
  | .sp _ => .failed
  | .sc _ => .failed

/-- `feed(B, x)` (R180). -/
def feed (g : Byte) (B : Builder) (x : Fed) : FeedResult :=
  match x with
  | .byte b => feedByte g B b
  | .noByte => feedEnd g B

/-- What the iteration does with the answer for a byte (R167): `Keep` and `Completed` consume, `Failed` and `Interrupted` do
not. -/
def applyFeed (r : FeedResult) (s : State) : State :=
  match r with
  | .keep B => setSlot (some B) (consume s)
  | .completed e slot => emit e (setSlot slot (consume s))
  | .failed => discardBuilder s
  | .interrupted e => interruptSysex e s

/-- Checks (2) and (3) of R140 for a byte below 0xF8: with a builder in progress the byte is fed to it (R167); with none the
byte does what its own class says, `opening`. -/
def feedOrOpen (opening : State → State) (b : Byte) (s : State) : Result :=
  match s.slot with
  | some B => .next (applyFeed (feed s.cfgGroup B (.byte b)) s)
  | none => .next (opening s)

end Sys2Proof.Machine
end

