-- ==== Sys2Proof/Machine/Boundary.lean ====
section
/-! DEFINITION. What an iteration does with no byte (44_decoder_loop.md R212, R214, R215), and what the outside world does
between iterations: transport (20_memory.md), consumer (R210) and reset (70_reset_and_hazards.md R260). -/

namespace Sys2Proof.Machine

/-- `EMPTY` (R212): the pull returns `PENDING`; slot and cursor stay. -/
def atEmpty (s : State) : State := answer .pending s

/-- `END` (R214, R215): with no builder the pull returns `EXHAUSTED`; a builder is fed "no byte" once and the slot becomes
`NONE` in every case; an interrupted sysex is returned as the pull's event, and any other builder gives `EXHAUSTED`. -/
def atEnd (s : State) : State :=
  match s.slot with
  | none => answer .exhausted s
  | some B =>
    match feed s.cfgGroup B .noByte with
    | .interrupted e => emit e (setSlot none s)
    | .failed => answer .exhausted (setSlot none s)
    | .keep _ => answer .exhausted (setSlot none s)
    | .completed _ _ => answer .exhausted (setSlot none s)

/-- The transport appends a byte (R46). After END it may not (D19); the spec puts that outside the model (U14). -/
def presentByte (b : Byte) (s : State) : Result :=
  if s.ended then .refused (.byteAfterEnd b) else .next { s with src := s.src.append b }

/-- The transport signals END (R41); END is sticky, so a second signal changes nothing (R44, log entry 18). -/
def signalEnd (s : State) : State := { s with ended := true }

/-- The consumer's pull is accepted (R210). -/
def beginPull (s : State) : State := { s with pulling := true }

/-- Reset (R260): the slot becomes `NONE` and a new source is attached, its first byte the next to be peeked. Whatever the slot
held is dropped with no event. Nothing else is reset (log entry 4). -/
def resetDecoder (s : State) : State := { s with slot := none, pos := 0, src := [], ended := false }

/-- The state in which a turn's work is done: the turn has been taken from the agenda. -/
def popTurn (rest : List Turn) (s : State) : State := { s with agenda := rest }

/-! ## Placing an instruction (the fixed name `State.withFetchWord` calls these) -/

/-- The decoder's next iteration finds byte `b` at the cursor: the byte is at `pos`, a pull is in progress, and the next turn
(if the agenda holds any) is the decoder's. -/
def placeByte (b : Byte) (s : State) : State :=
  { s with
    src := s.src.write s.pos b
    pulling := true
    agenda := if s.agenda.isEmpty then [] else .iterate :: s.agenda }

/-- The encoder is asked for event `e` in the next turn. -/
def placeRequest (e : Event) (s : State) : State := { s with agenda := .encode e :: s.agenda }

end Sys2Proof.Machine
end

