-- ==== Sys2Proof/Machine/ChannelVoice.lean ====
section
/-! DEFINITION. Channel-voice status bytes, 0x80..0xEF (42_decoder_classify.md R151 to R158, R168). -/

namespace Sys2Proof.Machine

/-- With no builder a channel-voice status byte is consumed and opens `CV(b, need, 0, -)` (R151). The arm for an unknown kind is
R168's (the byte is consumed, no builder is installed) and is never taken. -/
def openChannelVoice (b : Byte) (s : State) : State :=
  match kindOf b with
  | some k => setSlot (some (.cv b (Progress.fresh k.need))) (consume s)
  | none => dropByte s

/-- A channel-voice status byte of a kind (R151): it opens its builder, or is fed to the one in progress. -/
def channelVoiceByte (k : CvKind) (ch : Nibble) (s : State) : Result :=
  feedOrOpen (openChannelVoice (status k (channelField ch))) (status k (channelField ch)) s

/-- `NOTE_OFF` (R152). -/
def execNoteOff (ch : Nibble) (s : State) : Result := channelVoiceByte .noteOff ch s

/-- `NOTE_ON` (R153). -/
def execNoteOn (ch : Nibble) (s : State) : Result := channelVoiceByte .noteOn ch s

/-- `POLY_PRESSURE` (R154). -/
def execPolyPressure (ch : Nibble) (s : State) : Result := channelVoiceByte .polyPressure ch s

/-- `CONTROL_CHANGE` (R155). -/
def execControlChange (ch : Nibble) (s : State) : Result := channelVoiceByte .controlChange ch s

/-- `PROGRAM_CHANGE` (R156). -/
def execProgramChange (ch : Nibble) (s : State) : Result := channelVoiceByte .programChange ch s

/-- `CHANNEL_PRESSURE` (R157). -/
def execChannelPressure (ch : Nibble) (s : State) : Result := channelVoiceByte .channelPressure ch s

/-- `PITCH_BEND` (R158). -/
def execPitchBend (ch : Nibble) (s : State) : Result := channelVoiceByte .pitchBend ch s

end Sys2Proof.Machine
end

