-- ==== Sys2Proof/Machine/Data.lean ====
section
/-! DEFINITION. The data byte, 0x00..0x7F (42_decoder_classify.md R150). -/

namespace Sys2Proof.Machine

/-- With no builder a data byte opens a bare sysex continuation, `SX(explicit = 0, data = [b])` (R150). -/
def openContinuation (b : Byte) (s : State) : State := setSlot (some (.sx false [b])) (consume s)

/-- `DATA` (R150). -/
def execData (v : Septet) (s : State) : Result := feedOrOpen (openContinuation (dataField v)) (dataField v) s

end Sys2Proof.Machine
end

