-- ==== Sys2Proof/Syntax.lean ====
section
/-! DEFINITION. The instructions: one constructor per row of spec/opcode_table.json, with the fields of the row as operands.

The 24 decoder rows are the byte classes of 30_encoding.md R63 (a byte is one instruction word). The 21 encoder rows are the
operations of 41_encoder.md; their operands are the event fields each operation reads, 8 bits wide and not validated (R138),
the channel being the low nibble of `status`. -/

namespace Sys2Proof

/-- An instruction: a byte class of the Stream Decoder or an operation of the Byte Encoder. -/
inductive Instr where
  /-- `DATA`, 0x00..0x7F, the 7-bit value `v` (R150). -/
  | data (v : Septet)
  /-- `NOTE_OFF`, 0x80..0x8F (R152). -/
  | noteOff (ch : Nibble)
  /-- `NOTE_ON`, 0x90..0x9F (R153). -/
  | noteOn (ch : Nibble)
  /-- `POLY_PRESSURE`, 0xA0..0xAF (R154). -/
  | polyPressure (ch : Nibble)
  /-- `CONTROL_CHANGE`, 0xB0..0xBF (R155). -/
  | controlChange (ch : Nibble)
  /-- `PROGRAM_CHANGE`, 0xC0..0xCF (R156). -/
  | programChange (ch : Nibble)
  /-- `CHANNEL_PRESSURE`, 0xD0..0xDF (R157). -/
  | channelPressure (ch : Nibble)
  /-- `PITCH_BEND`, 0xE0..0xEF (R158). -/
  | pitchBend (ch : Nibble)
  /-- `SYSEX_START`, 0xF0 (R159). -/
  | sysexStart
  /-- `MTC_QUARTER_FRAME`, 0xF1 (R160). -/
  | mtcQuarterFrame
  /-- `SONG_POSITION`, 0xF2 (R161). -/
  | songPosition
  /-- `SONG_SELECT`, 0xF3 (R162). -/
  | songSelect
  /-- `RESERVED_F4` (R163). -/
  | reservedF4
  /-- `RESERVED_F5` (R164). -/
  | reservedF5
  /-- `TUNE_REQUEST`, 0xF6 (R165). -/
  | tuneRequest
  /-- `SYSEX_END`, 0xF7 (R166). -/
  | sysexEnd
  /-- `TIMING_CLOCK`, 0xF8 (R142). -/
  | timingClock
  /-- `RESERVED_F9` (R143). -/
  | reservedF9
  /-- `RT_START`, 0xFA (R144). -/
  | rtStart
  /-- `RT_CONTINUE`, 0xFB (R145). -/
  | rtContinue
  /-- `RT_STOP`, 0xFC (R146). -/
  | rtStop
  /-- `RESERVED_FD` (R147). -/
  | reservedFD
  /-- `ACTIVE_SENSING`, 0xFE (R148). -/
  | activeSensing
  /-- `RT_RESET`, 0xFF (R149). -/
  | rtReset
  /-- `ENC_NOTE_OFF` (R113). -/
  | encNoteOff (ch : Nibble) (data1 data2 : Byte)
  /-- `ENC_NOTE_ON` (R114). -/
  | encNoteOn (ch : Nibble) (data1 data2 : Byte)
  /-- `ENC_POLY_PRESSURE` (R115). -/
  | encPolyPressure (ch : Nibble) (data1 data2 : Byte)
  /-- `ENC_CONTROL_CHANGE` (R116). -/
  | encControlChange (ch : Nibble) (data1 data2 : Byte)
  /-- `ENC_PROGRAM_CHANGE`; `data2` is not read (R117). -/
  | encProgramChange (ch : Nibble) (data1 : Byte)
  /-- `ENC_CHANNEL_PRESSURE`; `data2` is not read (R118). -/
  | encChannelPressure (ch : Nibble) (data1 : Byte)
  /-- `ENC_PITCH_BEND` (R119). -/
  | encPitchBend (ch : Nibble) (data1 data2 : Byte)
  /-- `ENC_MTC_QUARTER_FRAME` (R120). -/
  | encMtcQuarterFrame (value : Byte)
  /-- `ENC_SONG_POSITION` (R121). -/
  | encSongPosition (lsb msb : Byte)
  /-- `ENC_SONG_SELECT` (R122). -/
  | encSongSelect (number : Byte)
  /-- `ENC_TUNE_REQUEST` (R123). -/
  | encTuneRequest
  /-- `ENC_SYSEX_COMPLETE` (R125). -/
  | encSysexComplete (data : List Byte)
  /-- `ENC_SYSEX_START` (R126). -/
  | encSysexStart (data : List Byte)
  /-- `ENC_SYSEX_CONTINUE` (R127). -/
  | encSysexContinue (data : List Byte)
  /-- `ENC_SYSEX_END` (R128). -/
  | encSysexEnd (data : List Byte)
  /-- `ENC_TIMING_CLOCK` (R130). -/
  | encTimingClock
  /-- `ENC_RT_START` (R131). -/
  | encRtStart
  /-- `ENC_RT_CONTINUE` (R132). -/
  | encRtContinue
  /-- `ENC_RT_STOP` (R133). -/
  | encRtStop
  /-- `ENC_ACTIVE_SENSING` (R134). -/
  | encActiveSensing
  /-- `ENC_RT_RESET` (R135). -/
  | encRtReset
  deriving DecidableEq, Repr

end Sys2Proof
end

