-- ==== Sys2Proof/WellFormed.lean ====
section
/-! DEFINITION. Well-formed instructions. Channels, data values and 8-bit fields are bounded by their types; what is left to
check is the sysex payload: `data` is a sequence of 7-bit bytes and never contains the opcodes (40_event_model.md R96).

The machine also runs an ill-formed encoder operation: nothing is validated and the byte goes out as it is (R124, R138). -/

namespace Sys2Proof

/-- `data` holds 7-bit bytes only, so neither 0xF0 nor 0xF7 (R96). -/
def dataWellFormed (data : List Byte) : Bool := data.all Machine.isData

/-- The check of one instruction. -/
def Instr.wellFormed : Instr → Bool
  | .encSysexComplete d => dataWellFormed d
  | .encSysexStart d => dataWellFormed d
  | .encSysexContinue d => dataWellFormed d
  | .encSysexEnd d => dataWellFormed d
  | .data _ => true
  | .noteOff _ => true
  | .noteOn _ => true
  | .polyPressure _ => true
  | .controlChange _ => true
  | .programChange _ => true
  | .channelPressure _ => true
  | .pitchBend _ => true
  | .sysexStart => true
  | .mtcQuarterFrame => true
  | .songPosition => true
  | .songSelect => true
  | .reservedF4 => true
  | .reservedF5 => true
  | .tuneRequest => true
  | .sysexEnd => true
  | .timingClock => true
  | .reservedF9 => true
  | .rtStart => true
  | .rtContinue => true
  | .rtStop => true
  | .reservedFD => true
  | .activeSensing => true
  | .rtReset => true
  | .encNoteOff _ _ _ => true
  | .encNoteOn _ _ _ => true
  | .encPolyPressure _ _ _ => true
  | .encControlChange _ _ _ => true
  | .encProgramChange _ _ => true
  | .encChannelPressure _ _ => true
  | .encPitchBend _ _ _ => true
  | .encMtcQuarterFrame _ => true
  | .encSongPosition _ _ => true
  | .encSongSelect _ => true
  | .encTuneRequest => true
  | .encTimingClock => true
  | .encRtStart => true
  | .encRtContinue => true
  | .encRtStop => true
  | .encActiveSensing => true
  | .encRtReset => true

end Sys2Proof
end

