-- ==== Sys2Proof/Decode.lean ====
section
/-! DEFINITION. Decoding and encoding of instruction words.

The block has two units with an opcode table each. `decodeByte` is the Stream Decoder's map of all 256 byte values
(30_encoding.md R63); `decodeOutput` reads back, from the output patterns of the encoder rows (41_encoder.md), which operation
produces given bytes. `decode` puts the two behind one total function that rejects by name. `encode` is written from the same
patterns. -/

namespace Sys2Proof
open Sys2Proof.Machine

/-- The two units of the block (R1): the Stream Decoder and the Byte Encoder. -/
inductive Codec where
  | dec | enc
  deriving DecidableEq, Repr

/-- Why bytes are no instruction of a unit. -/
inductive Reject where
  /-- the decoder's instruction word is one byte, and there is none -/
  | noByte
  /-- no encoder operation's output begins with this byte: 0xF4, 0xF5, 0xF9, 0xFD (R71, R129) -/
  | noOperation (b : Byte)
  /-- an encoder operation's output begins with this byte and needs more bytes than there are (R65) -/
  | truncated (b : Byte)
  deriving DecidableEq, Repr

/-- The result of decoding: an instruction and the bytes after it, or a named rejection. -/
inductive Decoded where
  | instr (i : Instr) (rest : List Byte)
  | reject (r : Reject)
  deriving DecidableEq, Repr

/-- The unit an instruction belongs to (the column `unit` of the opcode table, R76). -/
def Instr.codec : Instr → Codec
  | .data _ => .dec
  | .noteOff _ => .dec
  | .noteOn _ => .dec
  | .polyPressure _ => .dec
  | .controlChange _ => .dec
  | .programChange _ => .dec
  | .channelPressure _ => .dec
  | .pitchBend _ => .dec
  | .sysexStart => .dec
  | .mtcQuarterFrame => .dec
  | .songPosition => .dec
  | .songSelect => .dec
  | .reservedF4 => .dec
  | .reservedF5 => .dec
  | .tuneRequest => .dec
  | .sysexEnd => .dec
  | .timingClock => .dec
  | .reservedF9 => .dec
  | .rtStart => .dec
  | .rtContinue => .dec
  | .rtStop => .dec
  | .reservedFD => .dec
  | .activeSensing => .dec
  | .rtReset => .dec
  | .encNoteOff _ _ _ => .enc
  | .encNoteOn _ _ _ => .enc
  | .encPolyPressure _ _ _ => .enc
  | .encControlChange _ _ _ => .enc
  | .encProgramChange _ _ => .enc
  | .encChannelPressure _ _ => .enc
  | .encPitchBend _ _ _ => .enc
  | .encMtcQuarterFrame _ => .enc
  | .encSongPosition _ _ => .enc
  | .encSongSelect _ => .enc
  | .encTuneRequest => .enc
  | .encSysexComplete _ => .enc
  | .encSysexStart _ => .enc
  | .encSysexContinue _ => .enc
  | .encSysexEnd _ => .enc
  | .encTimingClock => .enc
  | .encRtStart => .enc
  | .encRtContinue => .enc
  | .encRtStop => .enc
  | .encActiveSensing => .enc
  | .encRtReset => .enc

/-- Format `S-SYS`: the low nibble of a byte 0xF0..0xFF is its code (R62, the last sixteen rows of R63). -/
def decodeSystem (code : Nibble) : Instr :=
  match code.toNat with
  | 0x0 => .sysexStart
  | 0x1 => .mtcQuarterFrame
  | 0x2 => .songPosition
  | 0x3 => .songSelect
  | 0x4 => .reservedF4
  | 0x5 => .reservedF5
  | 0x6 => .tuneRequest
  | 0x7 => .sysexEnd
  | 0x8 => .timingClock
  | 0x9 => .reservedF9
  | 0xA => .rtStart
  | 0xB => .rtContinue
  | 0xC => .rtStop
  | 0xD => .reservedFD
  | 0xE => .activeSensing
  | _ => .rtReset

/-- The map of all 256 byte values (R63), total: format `D`, then `S-CV` by its kind nibble, then `S-SYS` (R60 to R62). -/
def decodeByte (b : Byte) : Instr :=
  if isData b then .data (dataValue b)
  else
    match kindOf b with
    | some .noteOff => .noteOff (lowNibble b)
    | some .noteOn => .noteOn (lowNibble b)
    | some .polyPressure => .polyPressure (lowNibble b)
    | some .controlChange => .controlChange (lowNibble b)
    | some .programChange => .programChange (lowNibble b)
    | some .channelPressure => .channelPressure (lowNibble b)
    | some .pitchBend => .pitchBend (lowNibble b)
    | none => decodeSystem (lowNibble b)

/-- The leading data bytes and what follows them: the `...` of the sysex output patterns, read as 7-bit bytes (R96). -/
def splitData : List Byte → List Byte × List Byte
  | [] => ([], [])
  | b :: bs => if isData b then (b :: (splitData bs).1, (splitData bs).2) else ([], b :: bs)

/-- The patterns `... 11110111` and `...` (R127, R128): a fragment with no 0xF0 in front. -/
def decodeBare (bytes : List Byte) : Decoded :=
  match (splitData bytes).2 with
  | 0xF7#8 :: rest => .instr (.encSysexEnd (splitData bytes).1) rest
  | rest => .instr (.encSysexContinue (splitData bytes).1) rest

/-- The patterns `11110000 ... 11110111` and `11110000 ...` (R125, R126), after the 0xF0. -/
def decodeBracketed (bytes : List Byte) : Decoded :=
  match (splitData bytes).2 with
  | 0xF7#8 :: rest => .instr (.encSysexComplete (splitData bytes).1) rest
  | rest => .instr (.encSysexStart (splitData bytes).1) rest

/-- A pattern `status aaaaaaaa bbbbbbbb` or one with two fields after a code (R113 to R116, R119, R121): fields of 8 bits. -/
def decodeTwo (b : Byte) (op : Byte → Byte → Instr) : List Byte → Decoded
  | x :: y :: rest => .instr (op x y) rest
  | _ => .reject (.truncated b)

/-- A pattern with one 8-bit field (R117, R118, R120, R122). -/
def decodeOne (b : Byte) (op : Byte → Instr) : List Byte → Decoded
  | x :: rest => .instr (op x) rest
  | _ => .reject (.truncated b)

/-- The encoder outputs that begin with a byte 0xF0..0xFF (R120 to R135). -/
def decodeSystemOutput (b : Byte) (bytes : List Byte) : Decoded :=
  match (lowNibble b).toNat with
  | 0x0 => decodeBracketed bytes
  | 0x1 => decodeOne b .encMtcQuarterFrame bytes
  | 0x2 => decodeTwo b .encSongPosition bytes
  | 0x3 => decodeOne b .encSongSelect bytes
  | 0x6 => .instr .encTuneRequest bytes
  | 0x7 => .instr (.encSysexEnd []) bytes
  | 0x8 => .instr .encTimingClock bytes
  | 0xA => .instr .encRtStart bytes
  | 0xB => .instr .encRtContinue bytes
  | 0xC => .instr .encRtStop bytes
  | 0xE => .instr .encActiveSensing bytes
  | 0xF => .instr .encRtReset bytes
  | _ => .reject (.noOperation b)

/-- Which encoder operation has these bytes as its output, and the bytes after them. -/
def decodeOutput : List Byte → Decoded
  | [] => decodeBare []
  | b :: bs =>
    if isData b then decodeBare (b :: bs)
    else
      match kindOf b with
      | some .noteOff => decodeTwo b (.encNoteOff (lowNibble b)) bs
      | some .noteOn => decodeTwo b (.encNoteOn (lowNibble b)) bs
      | some .polyPressure => decodeTwo b (.encPolyPressure (lowNibble b)) bs
      | some .controlChange => decodeTwo b (.encControlChange (lowNibble b)) bs
      | some .programChange => decodeOne b (.encProgramChange (lowNibble b)) bs
      | some .channelPressure => decodeOne b (.encChannelPressure (lowNibble b)) bs
      | some .pitchBend => decodeTwo b (.encPitchBend (lowNibble b)) bs
      | none => decodeSystemOutput b bs

/-- Decoding, total on any bytes: one byte for the decoder, one output pattern for the encoder. -/
def decode : Codec → List Byte → Decoded
  | .dec, [] => .reject .noByte
  | .dec, b :: rest => .instr (decodeByte b) rest
  | .enc, bytes => decodeOutput bytes

/-- The words of an instruction: the byte of a decoder row (R63), the output pattern of an encoder row (R113 to R135). -/
def encode : Instr → List Byte
  | .data v => [0#1 ++ v]
  | .noteOff ch => [0x8#4 ++ ch]
  | .noteOn ch => [0x9#4 ++ ch]
  | .polyPressure ch => [0xA#4 ++ ch]
  | .controlChange ch => [0xB#4 ++ ch]
  | .programChange ch => [0xC#4 ++ ch]
  | .channelPressure ch => [0xD#4 ++ ch]
  | .pitchBend ch => [0xE#4 ++ ch]
  | .sysexStart => [0xF0#8]
  | .mtcQuarterFrame => [0xF1#8]
  | .songPosition => [0xF2#8]
  | .songSelect => [0xF3#8]
  | .reservedF4 => [0xF4#8]
  | .reservedF5 => [0xF5#8]
  | .tuneRequest => [0xF6#8]
  | .sysexEnd => [0xF7#8]
  | .timingClock => [0xF8#8]
  | .reservedF9 => [0xF9#8]
  | .rtStart => [0xFA#8]
  | .rtContinue => [0xFB#8]
  | .rtStop => [0xFC#8]
  | .reservedFD => [0xFD#8]
  | .activeSensing => [0xFE#8]
  | .rtReset => [0xFF#8]
  | .encNoteOff ch a b => [0x8#4 ++ ch, a, b]
  | .encNoteOn ch a b => [0x9#4 ++ ch, a, b]
  | .encPolyPressure ch a b => [0xA#4 ++ ch, a, b]
  | .encControlChange ch a b => [0xB#4 ++ ch, a, b]
  | .encProgramChange ch a => [0xC#4 ++ ch, a]
  | .encChannelPressure ch a => [0xD#4 ++ ch, a]
  | .encPitchBend ch a b => [0xE#4 ++ ch, a, b]
  | .encMtcQuarterFrame v => [0xF1#8, v]
  | .encSongPosition l m => [0xF2#8, l, m]
  | .encSongSelect n => [0xF3#8, n]
  | .encTuneRequest => [0xF6#8]
  | .encSysexComplete d => 0xF0#8 :: (d ++ [0xF7#8])
  | .encSysexStart d => 0xF0#8 :: d
  | .encSysexContinue d => d
  | .encSysexEnd d => d ++ [0xF7#8]
  | .encTimingClock => [0xF8#8]
  | .encRtStart => [0xFA#8]
  | .encRtContinue => [0xFB#8]
  | .encRtStop => [0xFC#8]
  | .encActiveSensing => [0xFE#8]
  | .encRtReset => [0xFF#8]

/-- The `n` lowest bytes of `w`, most significant first: the opcode table numbers a row's bits as ONE number, bit 0 the least
significant bit of its LAST byte (`c` of `ENC_NOTE_OFF`, "byte 0 bits 3:0", stands at 19:16). DEDUCED (log entry 9). -/
def bytesOfWord : Nat → Nat → List Byte
  | 0, _ => []
  | n + 1, w => BitVec.ofNat 8 (w >>> (8 * n)) :: bytesOfWord n w

/-- The instruction read from a table word of `nbits` bits: a word of 8 bits is a decoder row, a longer one an encoder row
(DEDUCED, log entry 9: seven one-byte encoder rows have the word of a decoder row, and such a word is the decoder's). The
bytes must be the whole output of one operation. -/
def decodeTableWord (nbits w : Nat) : Option Instr :=
  match decode (if nbits ≤ 8 then .dec else .enc) (bytesOfWord ((nbits + 7) / 8) w) with
  | .instr i [] => some i
  | .instr _ (_ :: _) => none
  | .reject _ => none

end Sys2Proof
end

