-- ==== Sys2Proof/Machine/Encoder.lean ====
section
/-! DEFINITION. The Byte Encoder (41_encoder.md): the operation an event selects (R112, R136), the 21 operations (R113 to R135)
and the events that ask for them. An operation reads its fields, writes them unchanged (R138) and touches nothing of the
decoder (R32, R110). -/

namespace Sys2Proof.Machine

/-- The operation a two-data-byte channel-voice event selects; without `data2` it is outside the encoder's domain (R136). -/
def withData2 (s : Byte) (data2 : Option Byte) (op : Byte → Instr) : Except Refusal Instr :=
  match data2 with
  | some d => .ok (op d)
  | none => .error (.encoderNoData2 s)

/-- Which operation an event selects (R112 by the kind table, R124, R129); `group` is not read (R137), and `data2` of a
one-data-byte kind is not read (R117, R118). An unknown kind is outside the encoder's domain (R136). -/
def selectOperation : Event → Except Refusal Instr
  | .channelVoice _ s a b =>
    match kindOf s with
    | some .noteOff => withData2 s b (.encNoteOff (lowNibble s) a)
    | some .noteOn => withData2 s b (.encNoteOn (lowNibble s) a)
    | some .polyPressure => withData2 s b (.encPolyPressure (lowNibble s) a)
    | some .controlChange => withData2 s b (.encControlChange (lowNibble s) a)
    | some .programChange => .ok (.encProgramChange (lowNibble s) a)
    | some .channelPressure => .ok (.encChannelPressure (lowNibble s) a)
    | some .pitchBend => withData2 s b (.encPitchBend (lowNibble s) a)
    | none => .error (.encoderUnknownKind s)
  | .quarterFrame _ v => .ok (.encMtcQuarterFrame v)
  | .songPosition _ l m => .ok (.encSongPosition l m)
  | .songSelect _ n => .ok (.encSongSelect n)
  | .tuneRequest _ => .ok .encTuneRequest
  | .sysex _ .sxComplete d => .ok (.encSysexComplete d)
  | .sysex _ .sxStart d => .ok (.encSysexStart d)
  | .sysex _ .sxContinue d => .ok (.encSysexContinue d)
  | .sysex _ .sxEnd d => .ok (.encSysexEnd d)
  | .realtime _ .timingClock => .ok .encTimingClock
  | .realtime _ .rtStart => .ok .encRtStart
  | .realtime _ .rtContinue => .ok .encRtContinue
  | .realtime _ .rtStop => .ok .encRtStop
  | .realtime _ .activeSensing => .ok .encActiveSensing
  | .realtime _ .rtReset => .ok .encRtReset

/-- The event of group `g` that asks for an encoder operation; a decoder row has none. -/
def requestOf (g : Byte) : Instr → Option Event
  | .encNoteOff ch a b => some (.channelVoice g (status .noteOff (channelField ch)) a (some b))
  | .encNoteOn ch a b => some (.channelVoice g (status .noteOn (channelField ch)) a (some b))
  | .encPolyPressure ch a b => some (.channelVoice g (status .polyPressure (channelField ch)) a (some b))
  | .encControlChange ch a b => some (.channelVoice g (status .controlChange (channelField ch)) a (some b))
  | .encProgramChange ch a => some (.channelVoice g (status .programChange (channelField ch)) a none)
  | .encChannelPressure ch a => some (.channelVoice g (status .channelPressure (channelField ch)) a none)
  | .encPitchBend ch a b => some (.channelVoice g (status .pitchBend (channelField ch)) a (some b))
  | .encMtcQuarterFrame v => some (.quarterFrame g v)
  | .encSongPosition l m => some (.songPosition g l m)
  | .encSongSelect n => some (.songSelect g n)
  | .encTuneRequest => some (.tuneRequest g)
  | .encSysexComplete d => some (.sysex g .sxComplete d)
  | .encSysexStart d => some (.sysex g .sxStart d)
  | .encSysexContinue d => some (.sysex g .sxContinue d)
  | .encSysexEnd d => some (.sysex g .sxEnd d)
  | .encTimingClock => some (.realtime g .timingClock)
  | .encRtStart => some (.realtime g .rtStart)
  | .encRtContinue => some (.realtime g .rtContinue)
  | .encRtStop => some (.realtime g .rtStop)
  | .encActiveSensing => some (.realtime g .activeSensing)
  | .encRtReset => some (.realtime g .rtReset)
  | .data _ => none
  | .noteOff _ => none
  | .noteOn _ => none
  | .polyPressure _ => none
  | .controlChange _ => none
  | .programChange _ => none
  | .channelPressure _ => none
  | .pitchBend _ => none
  | .sysexStart => none
  | .mtcQuarterFrame => none
  | .songPosition => none
  | .songSelect => none
  | .reservedF4 => none
  | .reservedF5 => none
  | .tuneRequest => none
  | .sysexEnd => none
  | .timingClock => none
  | .reservedF9 => none
  | .rtStart => none
  | .rtContinue => none
  | .rtStop => none
  | .reservedFD => none
  | .activeSensing => none
  | .rtReset => none

/-! ## Channel voice: `[status, data1, (data2 if 2-byte kind)]` (R112) -/

/-- A two-data-byte kind (R112). -/
def encodeCv2 (k : CvKind) (ch : Nibble) (a b : Byte) (s : State) : Result :=
  .next (deliver [status k (channelField ch), a, b] s)

/-- A one-data-byte kind (R112). -/
def encodeCv1 (k : CvKind) (ch : Nibble) (a : Byte) (s : State) : Result :=
  .next (deliver [status k (channelField ch), a] s)

/-- `ENC_NOTE_OFF` (R113). -/
def execEncNoteOff (ch : Nibble) (a b : Byte) (s : State) : Result := encodeCv2 .noteOff ch a b s

/-- `ENC_NOTE_ON` (R114): a zero velocity is written as given. -/
def execEncNoteOn (ch : Nibble) (a b : Byte) (s : State) : Result := encodeCv2 .noteOn ch a b s

/-- `ENC_POLY_PRESSURE` (R115). -/
def execEncPolyPressure (ch : Nibble) (a b : Byte) (s : State) : Result := encodeCv2 .polyPressure ch a b s

/-- `ENC_CONTROL_CHANGE` (R116). -/
def execEncControlChange (ch : Nibble) (a b : Byte) (s : State) : Result := encodeCv2 .controlChange ch a b s

/-- `ENC_PROGRAM_CHANGE` (R117). -/
def execEncProgramChange (ch : Nibble) (a : Byte) (s : State) : Result := encodeCv1 .programChange ch a s

/-- `ENC_CHANNEL_PRESSURE` (R118). -/
def execEncChannelPressure (ch : Nibble) (a : Byte) (s : State) : Result := encodeCv1 .channelPressure ch a s

/-- `ENC_PITCH_BEND` (R119): `data1` then `data2`, not joined. -/
def execEncPitchBend (ch : Nibble) (a b : Byte) (s : State) : Result := encodeCv2 .pitchBend ch a b s

/-! ## System common (R120 to R123) -/

/-- `ENC_MTC_QUARTER_FRAME` (R120). -/
def execEncMtcQuarterFrame (v : Byte) (s : State) : Result := .next (deliver [0xF1#8, v] s)

/-- `ENC_SONG_POSITION` (R121): least significant field first. -/
def execEncSongPosition (l m : Byte) (s : State) : Result := .next (deliver [0xF2#8, l, m] s)

/-- `ENC_SONG_SELECT` (R122). -/
def execEncSongSelect (n : Byte) (s : State) : Result := .next (deliver [0xF3#8, n] s)

/-- `ENC_TUNE_REQUEST` (R123). -/
def execEncTuneRequest (s : State) : Result := .next (deliver [0xF6#8] s)

/-! ## Sysex: the brackets the kind says, the payload unchanged (R124) -/

/-- `ENC_SYSEX_COMPLETE` (R125). -/
def execEncSysexComplete (d : List Byte) (s : State) : Result := .next (deliver ([0xF0#8] ++ d ++ [0xF7#8]) s)

/-- `ENC_SYSEX_START` (R126): no terminator. -/
def execEncSysexStart (d : List Byte) (s : State) : Result := .next (deliver ([0xF0#8] ++ d) s)

/-- `ENC_SYSEX_CONTINUE` (R127): no leading opcode. -/
def execEncSysexContinue (d : List Byte) (s : State) : Result := .next (deliver d s)

/-- `ENC_SYSEX_END` (R128). -/
def execEncSysexEnd (d : List Byte) (s : State) : Result := .next (deliver (d ++ [0xF7#8]) s)

/-! ## Realtime: one byte of the fixed table (R129, R105) -/

/-- A realtime kind (R129). -/
def encodeRealtime (k : RtKind) (s : State) : Result := .next (deliver [k.code] s)

/-- `ENC_TIMING_CLOCK` (R130). -/
def execEncTimingClock (s : State) : Result := encodeRealtime .timingClock s

/-- `ENC_RT_START` (R131). -/
def execEncRtStart (s : State) : Result := encodeRealtime .rtStart s

/-- `ENC_RT_CONTINUE` (R132). -/
def execEncRtContinue (s : State) : Result := encodeRealtime .rtContinue s

/-- `ENC_RT_STOP` (R133). -/
def execEncRtStop (s : State) : Result := encodeRealtime .rtStop s

/-- `ENC_ACTIVE_SENSING` (R134). -/
def execEncActiveSensing (s : State) : Result := encodeRealtime .activeSensing s

/-- `ENC_RT_RESET` (R135): it resets nothing in the block. -/
def execEncRtReset (s : State) : Result := encodeRealtime .rtReset s

end Sys2Proof.Machine
end

