-- ==== Sys2Proof/Machine/Realtime.lean ====
section
/-! DEFINITION. Realtime bytes, 0xF8..0xFF (42_decoder_classify.md R141 to R149), served in every builder state. -/

namespace Sys2Proof.Machine

/-- The general rule R141: always consumed, the slot untouched; a byte of the realtime table is emitted, another is dropped. -/
def realtimeByte (b : Byte) (s : State) : Result :=
  match realtimeOf b with
  | some k => .next (emit (.realtime s.cfgGroup k) (consume s))
  | none => .next (dropByte s)

/-- `TIMING_CLOCK`, 0xF8 (R142). -/
def execTimingClock (s : State) : Result := realtimeByte 0xF8#8 s

/-- `RESERVED_F9` (R143). -/
def execReservedF9 (s : State) : Result := realtimeByte 0xF9#8 s

/-- `RT_START`, 0xFA (R144). -/
def execRtStart (s : State) : Result := realtimeByte 0xFA#8 s

/-- `RT_CONTINUE`, 0xFB (R145). -/
def execRtContinue (s : State) : Result := realtimeByte 0xFB#8 s

/-- `RT_STOP`, 0xFC (R146). -/
def execRtStop (s : State) : Result := realtimeByte 0xFC#8 s

/-- `RESERVED_FD` (R147). -/
def execReservedFD (s : State) : Result := realtimeByte 0xFD#8 s

/-- `ACTIVE_SENSING`, 0xFE (R148). -/
def execActiveSensing (s : State) : Result := realtimeByte 0xFE#8 s

/-- `RT_RESET`, 0xFF (R149): it does not reset the decoder. -/
def execRtReset (s : State) : Result := realtimeByte 0xFF#8 s

end Sys2Proof.Machine
end

