-- ==== Sys2Proof/Machine/SystemCommon.lean ====
section
/-! DEFINITION. System-common bytes, 0xF0..0xF7 (42_decoder_classify.md R159 to R166). -/

namespace Sys2Proof.Machine

/-- Consume the byte and open a builder. -/
def openBuilder (B : Builder) (s : State) : State := setSlot (some B) (consume s)

/-- Consume the byte and emit `TuneRequest` (R165). -/
def emitTuneRequest (s : State) : State := emit (.tuneRequest s.cfgGroup) (consume s)

/-- `SYSEX_START`, 0xF0 (R159). -/
def execSysexStart (s : State) : Result := feedOrOpen (openBuilder (.sx true [])) 0xF0#8 s

/-- `MTC_QUARTER_FRAME`, 0xF1 (R160). -/
def execMtcQuarterFrame (s : State) : Result := feedOrOpen (openBuilder (.sc .qf)) 0xF1#8 s

/-- `SONG_POSITION`, 0xF2 (R161). -/
def execSongPosition (s : State) : Result := feedOrOpen (openBuilder (.sp none)) 0xF2#8 s

/-- `SONG_SELECT`, 0xF3 (R162). -/
def execSongSelect (s : State) : Result := feedOrOpen (openBuilder (.sc .ss)) 0xF3#8 s

/-- `RESERVED_F4` (R163): with no builder, dropped. -/
def execReservedF4 (s : State) : Result := feedOrOpen dropByte 0xF4#8 s

/-- `RESERVED_F5` (R164): with no builder, dropped. -/
def execReservedF5 (s : State) : Result := feedOrOpen dropByte 0xF5#8 s

/-- `TUNE_REQUEST`, 0xF6 (R165): with no builder, the event comes at once. -/
def execTuneRequest (s : State) : Result := feedOrOpen emitTuneRequest 0xF6#8 s

/-- `SYSEX_END`, 0xF7 (R166): it ends a sysex builder; with no builder, dropped. -/
def execSysexEnd (s : State) : Result := feedOrOpen dropByte 0xF7#8 s

end Sys2Proof.Machine
end

