-- ==== Sys2Proof/Machine/Dispatch.lean ====
section
/-! DEFINITION. One arm per instruction. -/

namespace Sys2Proof.Machine

def exec (i : Instr) (s : State) : Host.Outcome State Fault Refusal :=
  match i with
  | .data v => Sys2Proof.Machine.execData v s
  | .noteOff ch => Sys2Proof.Machine.execNoteOff ch s
  | .noteOn ch => Sys2Proof.Machine.execNoteOn ch s
  | .polyPressure ch => Sys2Proof.Machine.execPolyPressure ch s
  | .controlChange ch => Sys2Proof.Machine.execControlChange ch s
  | .programChange ch => Sys2Proof.Machine.execProgramChange ch s
  | .channelPressure ch => Sys2Proof.Machine.execChannelPressure ch s
  | .pitchBend ch => Sys2Proof.Machine.execPitchBend ch s
  | .sysexStart => Sys2Proof.Machine.execSysexStart s
  | .mtcQuarterFrame => Sys2Proof.Machine.execMtcQuarterFrame s
  | .songPosition => Sys2Proof.Machine.execSongPosition s
  | .songSelect => Sys2Proof.Machine.execSongSelect s
  | .reservedF4 => Sys2Proof.Machine.execReservedF4 s
  | .reservedF5 => Sys2Proof.Machine.execReservedF5 s
  | .tuneRequest => Sys2Proof.Machine.execTuneRequest s
  | .sysexEnd => Sys2Proof.Machine.execSysexEnd s
  | .timingClock => Sys2Proof.Machine.execTimingClock s
  | .reservedF9 => Sys2Proof.Machine.execReservedF9 s
  | .rtStart => Sys2Proof.Machine.execRtStart s
  | .rtContinue => Sys2Proof.Machine.execRtContinue s
  | .rtStop => Sys2Proof.Machine.execRtStop s
  | .reservedFD => Sys2Proof.Machine.execReservedFD s
  | .activeSensing => Sys2Proof.Machine.execActiveSensing s
  | .rtReset => Sys2Proof.Machine.execRtReset s
  | .encNoteOff ch a b => Sys2Proof.Machine.execEncNoteOff ch a b s
  | .encNoteOn ch a b => Sys2Proof.Machine.execEncNoteOn ch a b s
  | .encPolyPressure ch a b => Sys2Proof.Machine.execEncPolyPressure ch a b s
  | .encControlChange ch a b => Sys2Proof.Machine.execEncControlChange ch a b s
  | .encProgramChange ch a => Sys2Proof.Machine.execEncProgramChange ch a s
  | .encChannelPressure ch a => Sys2Proof.Machine.execEncChannelPressure ch a s
  | .encPitchBend ch a b => Sys2Proof.Machine.execEncPitchBend ch a b s
  | .encMtcQuarterFrame v => Sys2Proof.Machine.execEncMtcQuarterFrame v s
  | .encSongPosition l m => Sys2Proof.Machine.execEncSongPosition l m s
  | .encSongSelect n => Sys2Proof.Machine.execEncSongSelect n s
  | .encTuneRequest => Sys2Proof.Machine.execEncTuneRequest s
  | .encSysexComplete d => Sys2Proof.Machine.execEncSysexComplete d s
  | .encSysexStart d => Sys2Proof.Machine.execEncSysexStart d s
  | .encSysexContinue d => Sys2Proof.Machine.execEncSysexContinue d s
  | .encSysexEnd d => Sys2Proof.Machine.execEncSysexEnd d s
  | .encTimingClock => Sys2Proof.Machine.execEncTimingClock s
  | .encRtStart => Sys2Proof.Machine.execEncRtStart s
  | .encRtContinue => Sys2Proof.Machine.execEncRtContinue s
  | .encRtStop => Sys2Proof.Machine.execEncRtStop s
  | .encActiveSensing => Sys2Proof.Machine.execEncActiveSensing s
  | .encRtReset => Sys2Proof.Machine.execEncRtReset s

end Sys2Proof.Machine
end

