-- ==== Sys2Proof/Machine/Step.lean ====
section
/-! DEFINITION. One step of the machine: one iteration of the decoder's driving loop (44_decoder_loop.md R211), one encode
operation (41_encoder.md R110), or one transaction of the outside world. -/

namespace Sys2Proof.Machine

/-- One iteration (R211): one `Peek()`, then what its answer says. A byte is decoded and its instruction run (R140). -/
def iterate (s : State) : Host.Outcome State Fault Refusal :=
  match peek s with
  | .byte b => exec (decodeByte b) s
  | .empty => .next (atEmpty s)
  | .ended => .next (atEnd s)

/-- The decoder's turn: an iteration while a pull is in progress; between pulls it does nothing (R210). -/
def decoderTurn (s : State) : Host.Outcome State Fault Refusal :=
  if s.pulling then iterate s else .next s

/-- The encoder is given an event: the operation it selects runs (R110). -/
def encoderTurn (e : Event) (s : State) : Host.Outcome State Fault Refusal :=
  match selectOperation e with
  | .ok i => exec i s
  | .error r => .refused r

/-- One step. With no turn on the agenda the decoder runs on, or is idle (log entry 7). -/
def step (s : State) : Host.Outcome State Fault Refusal :=
  match s.agenda with
  | [] => decoderTurn s
  | .iterate :: rest => decoderTurn (popTurn rest s)
  | .encode e :: rest => encoderTurn e (popTurn rest s)
  | .present b :: rest => presentByte b (popTurn rest s)
  | .finish :: rest => .next (signalEnd (popTurn rest s))
  | .reset :: rest => .next (resetDecoder (popTurn rest s))
  | .pull :: rest => if s.pulling then iterate s else .next (beginPull (popTurn rest s))

/-- `s` with the table word `w` of `nbits` bits placed so that the very next step runs it: a decoder row at the cursor with a
pull in progress, an encoder row as the encoder's next request. A word that is no instruction changes nothing. -/
def State.withFetchWord (s : State) (nbits w : Nat) : State :=
  match decodeTableWord nbits w with
  | none => s
  | some i =>
    match requestOf s.cfgGroup i with
    | some e => placeRequest e s
    | none => placeByte (BitVec.ofNat 8 w) s

end Sys2Proof.Machine
end

