-- ==== Sys2Proof/Machine/Flags.lean ====
section
/-! DEFINITION. The block has no flags and no condition codes (10_state.md R29). What stands in their place are the names of the
silent conditions of 60_exceptions.md: labels of what an iteration did, never recorded and never read by a rule (R230, D21). -/

namespace Sys2Proof.Machine

/-- The conditions (R230): truncation R231, a reserved byte R232, sysex interruption R233, unknown kind R234. -/
inductive Condition where
  | truncation | reservedByte | sysexInterruption | unknownKind
  deriving DecidableEq, Repr

/-- The condition a byte below 0xF8 raises when it is fed to a builder (R231, R233). `completed` says whether a message has
completed under the channel-voice status the builder holds: a byte that only ends running status raises no condition worth the
name (R181). The state does not record it (D4), so it is an argument (DEDUCED, log entry 14). -/
def raisedByFeed (B : Builder) (b : Byte) (completed : Bool) : Option Condition :=
  if isData b then none
  else
    match B with
    | .cv _ .one => if completed then none else some .truncation
    | .cv _ (.two none) => if completed then none else some .truncation
    | .cv _ (.two (some _)) => some .truncation
    | .sx _ _ => if b = 0xF7#8 then none else some .sysexInterruption
    | .sp _ => some .truncation
    | .sc _ => some .truncation

/-- The condition a byte below 0xF8 raises with no builder in progress (R232, R234). -/
def raisedByOpening (b : Byte) : Option Condition :=
  if isData b then none
  else if b < 0xF0#8 then (if kindOf b = none then some .unknownKind else none)
  else if b = 0xF4#8 ∨ b = 0xF5#8 ∨ b = 0xF7#8 then some .reservedByte
  else none

/-- The condition one iteration raises, by what `Peek()` answers and the slot (R230 to R234, priority R237). -/
def raised (slot : Option Builder) (p : Peek) (completed : Bool) : Option Condition :=
  match p, slot with
  | .empty, _ => none
  | .ended, none => none
  | .ended, some (.sx _ _) => some .sysexInterruption
  | .ended, some (.cv _ (.two (some _))) => some .truncation
  | .ended, some (.cv _ _) => if completed then none else some .truncation
  | .ended, some (.sp _) => some .truncation
  | .ended, some (.sc _) => some .truncation
  | .byte b, slot =>
    if isRealtime b then (if realtimeOf b = none then some .reservedByte else none)
    else
      match slot with
      | some B => raisedByFeed B b completed
      | none => raisedByOpening b

end Sys2Proof.Machine
end

