-- ==== Sys2Proof/Machine/Stream.lean ====
section
/-! DEFINITION. Running the decoder over a whole byte sequence: `decode(bytes)` of 44_decoder_loop.md R222, and the events a
transcript holds. -/

namespace Sys2Proof.Machine

/-- The event of an answer, if it is one (R210). -/
def eventOf : PullResult → Option Event
  | .event e => some e
  | .pending => none
  | .exhausted => none

/-- The events of a transcript of answers, in order (R224). -/
def eventsOf (answers : List PullResult) : List Event := answers.filterMap eventOf

/-- A reset decoder of group `g` over a cursor on `bytes` that answers END after the last byte, and a consumer that keeps
pulling (R222). No iteration yields two events and every byte takes at most two iterations (R216, R218), so `2 n + 2` pulls
reach EXHAUSTED. -/
def onStream (g : Byte) (bytes : List Byte) : State :=
  { State.reset with
    src := Memory.ofBytes bytes
    ended := true
    cfgGroup := g
    agenda := List.replicate (2 * bytes.length + 2) .pull }

/-- Steps that are enough to answer every pull of `onStream`: one to accept a pull and one for its last iteration, and the
iterations between (R217). A step with nothing left to do changes nothing. -/
def stepsOnStream (bytes : List Byte) : Nat := 2 * (2 * bytes.length + 2) + 2 * bytes.length

/-- `decode(bytes)` (R222), as a run of the machine. -/
def decodeStream (g : Byte) (bytes : List Byte) : List Event :=
  match Host.Core.run core (stepsOnStream bytes) (onStream g bytes) with
  | .next s => eventsOf s.out
  | .fault _ => []
  | .refused _ => []

end Sys2Proof.Machine
end

