-- ==== Sys2Proof/Safety.lean ====
section
/-! DEFINITION. What counts as a good state: the invariants of 10_state.md R35 and 40_event_model.md R101. -/

namespace Sys2Proof.Machine

/-- R35 (a) and (c). Clauses (b) and (d) hold by the types of `d1` and `lsb`. -/
def Builder.ok : Builder → Bool
  | .cv s p => decide (0x80#8 ≤ s ∧ s ≤ 0xEF#8) && (kindOf s).map CvKind.need == some p.need
  | .sx x data => data.all isData && (x || !data.isEmpty)
  | .sp _ => true
  | .sc _ => true

/-- An event a decoder of group `g` may have emitted (R35 (e), R101, R102). -/
def Event.emittedBy (g : Byte) (e : Event) : Bool := e.valid && e.emittable && e.group == g

/-- The invariant of the machine. -/
structure Inv (s : State) : Prop where
  /-- R35 (a) to (d) -/
  slot : ∀ B, s.slot = some B → B.ok = true
  /-- the memory's canonical form -/
  canonical : s.src.wf = true
  /-- the source is a sequence indexed from 0 (R40, R52) -/
  dense : s.src = Memory.ofBytes s.src.bytes
  /-- the cursor never passes the first byte not presented (R43) -/
  cursor : s.pos ≤ s.src.bytes.length
  /-- R35 (e), R101 -/
  events : ∀ e, PullResult.event e ∈ s.out → e.emittedBy s.cfgGroup = true

end Sys2Proof.Machine
end

