-- ==== Sys2Proof/Certificates/Slice0/Obligations.lean ====
section
/-! DEFINITION. The statements for the provers. Each formalises rules of spec/ (OBLIGATIONS.json names them). An equation
`exec i s = .next { s with … }` says the whole next state: every field that is not named is unchanged. -/

namespace Sys2Proof.Stated
open Sys2Proof.Machine

/-- A status byte that is no terminator for the builder arrives: the builder is gone and the byte is not consumed; a sysex
fragment is handed over, any other partial message is lost (R181, R190, R194, R197). -/
def interruptedState (s : State) : Builder → State
  | .sx x d =>
    { s with
      slot := none
      out := s.out ++ [.event (.sysex s.cfgGroup (if x then .sxStart else .sxContinue) d)]
      pulling := false }
  | _ => { s with slot := none }

/-- `need(b)` of 44_decoder_loop.md R223: 1 for 0xC0..0xDF, else 2. -/
def freshProgress (b : Byte) : Progress := if 0xC0#8 ≤ b ∧ b ≤ 0xDF#8 then .one else .two none

/-- The columns of R223 that do not depend on the builder: `F8` to `FF`. -/
def realtimeColumn (g b : Byte) : Option PullResult :=
  if b = 0xF8#8 then some (.event (.realtime g .timingClock))
  else if b = 0xFA#8 then some (.event (.realtime g .rtStart))
  else if b = 0xFB#8 then some (.event (.realtime g .rtContinue))
  else if b = 0xFC#8 then some (.event (.realtime g .rtStop))
  else if b = 0xFE#8 then some (.event (.realtime g .activeSensing))
  else if b = 0xFF#8 then some (.event (.realtime g .rtReset))
  else none

/-- The row `NONE` of R223 on a byte below 0xF8: new slot and answer; the cursor always advances. -/
def noneRow (g b : Byte) : Option Builder × Option PullResult :=
  if b < 0x80#8 then (some (.sx false [b]), none)
  else if b < 0xF0#8 then (some (.cv b (freshProgress b)), none)
  else if b = 0xF0#8 then (some (.sx true []), none)
  else if b = 0xF1#8 then (some (.sc .qf), none)
  else if b = 0xF2#8 then (some (.sp none), none)
  else if b = 0xF3#8 then (some (.sc .ss), none)
  else if b = 0xF6#8 then (none, some (.event (.tuneRequest g)))
  else (none, none)

/-- The column `00..7F` of R223 for a slot that holds a builder: the cursor advances. -/
def dataColumn (g b : Byte) : Builder → Option Builder × Option PullResult
  | .cv s .one => (some (.cv s .one), some (.event (.channelVoice g s b none)))
  | .cv s (.two none) => (some (.cv s (.two (some (b.setWidth 7)))), none)
  | .cv s (.two (some d1)) =>
    (some (.cv s (.two none)),
      some (.event (if s >>> 4 = 9#8 ∧ b = 0#8 then .channelVoice g (0x80#8 ||| (s &&& 0xF#8)) (d1.setWidth 8) (some 0x40#8)
        else .channelVoice g s (d1.setWidth 8) (some b))))
  | .sx x d => (some (.sx x (d ++ [b])), none)
  | .sp none => (some (.sp (some (b.setWidth 7))), none)
  | .sp (some l) => (none, some (.event (.songPosition g (l.setWidth 8) b)))
  | .sc .qf => (none, some (.event (.quarterFrame g b)))
  | .sc .ss => (none, some (.event (.songSelect g b)))

/-- The columns `80..F7` and `END` of R223 for a builder that does not take the input: `NONE`, and the event of a sysex. -/
def lostColumn (g : Byte) : Builder → Option PullResult
  | .sx true d => some (.event (.sysex g .sxStart d))
  | .sx false d => some (.event (.sysex g .sxContinue d))
  | _ => none

/-- The transition table R223: how far the cursor moves, the new slot, and the answer to the pull if there is one. -/
def table (g : Byte) (slot : Option Builder) : Peek → Nat × Option Builder × Option PullResult
  | .empty => (0, slot, some .pending)
  | .ended =>
    match slot with
    | none => (0, none, some .exhausted)
    | some B => (0, none, some ((lostColumn g B).getD .exhausted))
  | .byte b =>
    if 0xF8#8 ≤ b then (1, slot, realtimeColumn g b)
    else
      match slot with
      | none => (1, noneRow g b)
      | some B =>
        if b < 0x80#8 then (1, dataColumn g b B)
        else if b = 0xF7#8 then
          match B with
          | .sx true d => (1, none, some (.event (.sysex g .sxComplete d)))
          | .sx false d => (1, none, some (.event (.sysex g .sxEnd d)))
          | B => (0, none, lostColumn g B)
        else (0, none, lostColumn g B)

/-- Where the cursor advances by one on a byte (R216). -/
def advances (slot : Option Builder) (b : Byte) : Prop :=
  0xF8#8 ≤ b ∨ slot = none ∨ b < 0x80#8 ∨ (b = 0xF7#8 ∧ ∃ x d, slot = some (.sx x d))

/-- What comes back of a valid event that is encoded and decoded again (R225 (a) to (e)). -/
def survivors : Event → List Event
  | .channelVoice g s a (some d) =>
    if s >>> 4 = 9#8 ∧ d = 0#8 then [.channelVoice g (0x80#8 ||| (s &&& 0xF#8)) a (some 0x40#8)]
    else [.channelVoice g s a (some d)]
  | .sysex _ .sxContinue [] => []
  | .sysex _ .sxEnd [] => []
  | e => [e]

/-- The encoder, asked in any state for this event, hands over these bytes and changes nothing else. -/
def encodesTo (e : Event) (bytes : List Byte) : Prop :=
  ∀ s rest, s.agenda = .encode e :: rest → step s = .next { s with agenda := rest, encOut := s.encOut ++ [bytes] }

/-- The decoder has the turn, and `rest` is the agenda afterwards: the agenda is empty, or the next turn is the decoder's, which
is taken off, or (with a pull in progress) it is a pull that must wait, which stays (log entries 2, 3). -/
def decoderHasTurn (s : State) (rest : List Turn) : Prop :=
  (s.agenda = [] ∧ rest = []) ∨ s.agenda = .iterate :: rest ∨
    (s.pulling = true ∧ (∃ later, s.agenda = .pull :: later) ∧ rest = s.agenda)

/-- A data byte (R7). -/
def isDataByte (b : Byte) : Prop := b < 0x80#8

end Sys2Proof.Stated

open Sys2Proof Sys2Proof.Machine Sys2Proof.Stated

/-! ## Encodings and the Event Model -/

/-- Words written out bit by bit from the encodings of spec/opcode_table.json, one or more of each family, and rejected words.
That encoder output is read back at all, and the rejections by name, are the model's own decoder (log entry 10). -/
def Obligations.WrittenOutWordsDecode : Prop :=
  decode .dec [0b00111100#8] = .instr (.data 0x3C#7) [] ∧
  decode .dec [0b10010011#8] = .instr (.noteOn 3#4) [] ∧
  decode .dec [0b11011111#8] = .instr (.channelPressure 15#4) [] ∧
  decode .dec [0b11110010#8] = .instr .songPosition [] ∧
  decode .dec [0b11110100#8] = .instr .reservedF4 [] ∧
  decode .dec [0b11111110#8] = .instr .activeSensing [] ∧
  decode .enc [0b10000101#8, 0x0D#8, 0x0E#8] = .instr (.encNoteOff 5#4 0x0D#8 0x0E#8) [] ∧
  decode .enc [0b11000101#8, 0x07#8] = .instr (.encProgramChange 5#4 0x07#8) [] ∧
  decode .enc [0b11110010#8, 0x00#8, 0x40#8] = .instr (.encSongPosition 0x00#8 0x40#8) [] ∧
  decode .enc [0b11110000#8, 0x7E#8, 0b11110111#8] = .instr (.encSysexComplete [0x7E#8]) [] ∧
  decode .enc [0x05#8, 0b11110111#8] = .instr (.encSysexEnd [0x05#8]) [] ∧
  decode .enc [0b11111100#8] = .instr .encRtStop [] ∧
  decode .dec [] = .reject .noByte ∧
  decode .enc [0b11110100#8] = .reject (.noOperation 0xF4#8) ∧
  decode .enc [0b10010000#8, 0x3C#8] = .reject (.truncated 0x90#8)

/-- The map of all 256 byte values, by range (30_encoding.md section 2). -/
def Obligations.ByteValueMapIsTotal : Prop :=
  ∀ b : Byte,
    (b < 0x80#8 → decodeByte b = .data (b.setWidth 7)) ∧
    (0x80#8 ≤ b → b < 0x90#8 → decodeByte b = .noteOff (b.setWidth 4)) ∧
    (0x90#8 ≤ b → b < 0xA0#8 → decodeByte b = .noteOn (b.setWidth 4)) ∧
    (0xA0#8 ≤ b → b < 0xB0#8 → decodeByte b = .polyPressure (b.setWidth 4)) ∧
    (0xB0#8 ≤ b → b < 0xC0#8 → decodeByte b = .controlChange (b.setWidth 4)) ∧
    (0xC0#8 ≤ b → b < 0xD0#8 → decodeByte b = .programChange (b.setWidth 4)) ∧
    (0xD0#8 ≤ b → b < 0xE0#8 → decodeByte b = .channelPressure (b.setWidth 4)) ∧
    (0xE0#8 ≤ b → b < 0xF0#8 → decodeByte b = .pitchBend (b.setWidth 4)) ∧
    (b = 0xF0#8 → decodeByte b = .sysexStart) ∧
    (b = 0xF1#8 → decodeByte b = .mtcQuarterFrame) ∧
    (b = 0xF2#8 → decodeByte b = .songPosition) ∧
    (b = 0xF3#8 → decodeByte b = .songSelect) ∧
    (b = 0xF4#8 → decodeByte b = .reservedF4) ∧
    (b = 0xF5#8 → decodeByte b = .reservedF5) ∧
    (b = 0xF6#8 → decodeByte b = .tuneRequest) ∧
    (b = 0xF7#8 → decodeByte b = .sysexEnd) ∧
    (b = 0xF8#8 → decodeByte b = .timingClock) ∧
    (b = 0xF9#8 → decodeByte b = .reservedF9) ∧
    (b = 0xFA#8 → decodeByte b = .rtStart) ∧
    (b = 0xFB#8 → decodeByte b = .rtContinue) ∧
    (b = 0xFC#8 → decodeByte b = .rtStop) ∧
    (b = 0xFD#8 → decodeByte b = .reservedFD) ∧
    (b = 0xFE#8 → decodeByte b = .activeSensing) ∧
    (b = 0xFF#8 → decodeByte b = .rtReset)

/-- R99: `kindOf(status)` by the high nibble, "unknown" outside 0x8..0xE, and never "unknown" for 0x80 ≤ status < 0xF0. -/
def Obligations.KindOfReadsTheHighNibble : Prop :=
  ∀ s : Byte,
    (kindOf s = some .noteOff ↔ s >>> 4 = 0x8#8) ∧
    (kindOf s = some .noteOn ↔ s >>> 4 = 0x9#8) ∧
    (kindOf s = some .polyPressure ↔ s >>> 4 = 0xA#8) ∧
    (kindOf s = some .controlChange ↔ s >>> 4 = 0xB#8) ∧
    (kindOf s = some .programChange ↔ s >>> 4 = 0xC#8) ∧
    (kindOf s = some .channelPressure ↔ s >>> 4 = 0xD#8) ∧
    (kindOf s = some .pitchBend ↔ s >>> 4 = 0xE#8) ∧
    (kindOf s = none ↔ s < 0x80#8 ∨ 0xF0#8 ≤ s)

/-- R100: `status(kind, ch)`, its range, and back again; only the low four bits of `ch` are used. -/
def Obligations.StatusOfKindAndChannel : Prop :=
  (∀ ch : Byte,
    status .noteOff ch = (0x8#8 <<< 4) ||| (ch &&& 0xF#8) ∧
    status .noteOn ch = (0x9#8 <<< 4) ||| (ch &&& 0xF#8) ∧
    status .polyPressure ch = (0xA#8 <<< 4) ||| (ch &&& 0xF#8) ∧
    status .controlChange ch = (0xB#8 <<< 4) ||| (ch &&& 0xF#8) ∧
    status .programChange ch = (0xC#8 <<< 4) ||| (ch &&& 0xF#8) ∧
    status .channelPressure ch = (0xD#8 <<< 4) ||| (ch &&& 0xF#8) ∧
    status .pitchBend ch = (0xE#8 <<< 4) ||| (ch &&& 0xF#8)) ∧
  status .noteOff 0x13#8 = 0x83#8 ∧
  (∀ (k : CvKind) (ch : Byte),
    status k (ch &&& 0xF#8) = status k ch ∧ 0x80#8 ≤ status k ch ∧ status k ch ≤ 0xEF#8 ∧
    kindOf (status k ch) = some k ∧ status k ch &&& 0xF#8 = ch &&& 0xF#8) ∧
  (∀ s : Byte, 0x80#8 ≤ s → s ≤ 0xEF#8 → ∃ k, kindOf s = some k ∧ status k (s &&& 0xF#8) = s)

/-- Decode and encode agree: the words of every well-formed instruction, of both units and with every operand, decode to that
instruction with nothing left over. Reading encoder output back is the model's own (log entry 10). -/
def Obligations.DecodeOfEncodeIsTheInstruction : Prop :=
  ∀ i : Instr, i.wellFormed = true → decode i.codec (encode i) = .instr i []

/-- Each word has one meaning: what a unit decodes is an instruction of that unit, well-formed, and encoding it gives the bytes
that were read. For the encoder's unit this is the model's own decoder of encoder output, with 8-bit fields and the longest run
of 7-bit bytes as a payload (log entry 10). -/
def Obligations.EncodeOfDecodeIsTheBytes : Prop :=
  ∀ (u : Codec) (bytes rest : List Byte) (i : Instr), decode u bytes = .instr i rest →
    i.codec = u ∧ i.wellFormed = true ∧ encode i ++ rest = bytes

/-! ## Realtime bytes -/

/-- R141 to R149: in every builder state a realtime byte is consumed and emitted, a reserved one consumed and dropped; the slot
and everything else is untouched. -/
def Obligations.RealtimeByteInEverySlot : Prop :=
  ∀ s : State,
    (decodeByte 0xF8#8 = .timingClock ∧
      exec .timingClock s = .next { s with
        pos := s.pos + 1, out := s.out ++ [.event (.realtime s.cfgGroup .timingClock)], pulling := false }) ∧
    (decodeByte 0xF9#8 = .reservedF9 ∧ exec .reservedF9 s = .next { s with pos := s.pos + 1 }) ∧
    (decodeByte 0xFA#8 = .rtStart ∧
      exec .rtStart s = .next { s with
        pos := s.pos + 1, out := s.out ++ [.event (.realtime s.cfgGroup .rtStart)], pulling := false }) ∧
    (decodeByte 0xFB#8 = .rtContinue ∧
      exec .rtContinue s = .next { s with
        pos := s.pos + 1, out := s.out ++ [.event (.realtime s.cfgGroup .rtContinue)], pulling := false }) ∧
    (decodeByte 0xFC#8 = .rtStop ∧
      exec .rtStop s = .next { s with
        pos := s.pos + 1, out := s.out ++ [.event (.realtime s.cfgGroup .rtStop)], pulling := false }) ∧
    (decodeByte 0xFD#8 = .reservedFD ∧ exec .reservedFD s = .next { s with pos := s.pos + 1 }) ∧
    (decodeByte 0xFE#8 = .activeSensing ∧
      exec .activeSensing s = .next { s with
        pos := s.pos + 1, out := s.out ++ [.event (.realtime s.cfgGroup .activeSensing)], pulling := false }) ∧
    (decodeByte 0xFF#8 = .rtReset ∧
      exec .rtReset s = .next { s with
        pos := s.pos + 1, out := s.out ++ [.event (.realtime s.cfgGroup .rtReset)], pulling := false })

/-! ## Status bytes 0x80..0xF7 -/

/-- R151 to R158: with no builder a channel-voice status byte is consumed and opens its builder with the count of the kind
table; with a builder in progress it interrupts that builder and is not consumed. -/
def Obligations.ChannelVoiceStatusByte : Prop :=
  ∀ (s : State) (ch : Nibble),
    (s.slot = none →
      exec (.noteOff ch) s = .next { s with pos := s.pos + 1, slot := some (.cv (0x8#4 ++ ch) (.two none)) } ∧
      exec (.noteOn ch) s = .next { s with pos := s.pos + 1, slot := some (.cv (0x9#4 ++ ch) (.two none)) } ∧
      exec (.polyPressure ch) s = .next { s with pos := s.pos + 1, slot := some (.cv (0xA#4 ++ ch) (.two none)) } ∧
      exec (.controlChange ch) s = .next { s with pos := s.pos + 1, slot := some (.cv (0xB#4 ++ ch) (.two none)) } ∧
      exec (.programChange ch) s = .next { s with pos := s.pos + 1, slot := some (.cv (0xC#4 ++ ch) .one) } ∧
      exec (.channelPressure ch) s = .next { s with pos := s.pos + 1, slot := some (.cv (0xD#4 ++ ch) .one) } ∧
      exec (.pitchBend ch) s = .next { s with pos := s.pos + 1, slot := some (.cv (0xE#4 ++ ch) (.two none)) }) ∧
    (∀ B, s.slot = some B →
      exec (.noteOff ch) s = .next (interruptedState s B) ∧
      exec (.noteOn ch) s = .next (interruptedState s B) ∧
      exec (.polyPressure ch) s = .next (interruptedState s B) ∧
      exec (.controlChange ch) s = .next (interruptedState s B) ∧
      exec (.programChange ch) s = .next (interruptedState s B) ∧
      exec (.channelPressure ch) s = .next (interruptedState s B) ∧
      exec (.pitchBend ch) s = .next (interruptedState s B))

/-- R159 to R165: with no builder a system-common byte opens its builder, is emitted at once (0xF6) or is dropped (0xF4, 0xF5);
with a builder in progress it interrupts that builder and is not consumed. -/
def Obligations.SystemCommonByte : Prop :=
  ∀ s : State,
    (s.slot = none →
      exec .sysexStart s = .next { s with pos := s.pos + 1, slot := some (.sx true []) } ∧
      exec .mtcQuarterFrame s = .next { s with pos := s.pos + 1, slot := some (.sc .qf) } ∧
      exec .songPosition s = .next { s with pos := s.pos + 1, slot := some (.sp none) } ∧
      exec .songSelect s = .next { s with pos := s.pos + 1, slot := some (.sc .ss) } ∧
      exec .reservedF4 s = .next { s with pos := s.pos + 1 } ∧
      exec .reservedF5 s = .next { s with pos := s.pos + 1 } ∧
      exec .tuneRequest s = .next { s with
        pos := s.pos + 1, out := s.out ++ [.event (.tuneRequest s.cfgGroup)], pulling := false }) ∧
    (∀ B, s.slot = some B →
      exec .sysexStart s = .next (interruptedState s B) ∧
      exec .mtcQuarterFrame s = .next (interruptedState s B) ∧
      exec .songPosition s = .next (interruptedState s B) ∧
      exec .songSelect s = .next (interruptedState s B) ∧
      exec .reservedF4 s = .next (interruptedState s B) ∧
      exec .reservedF5 s = .next (interruptedState s B) ∧
      exec .tuneRequest s = .next (interruptedState s B))

/-- R166, R189: 0xF7 ends a sysex fragment as `Complete` or `End`; with no builder it is dropped; with any other builder it is
an interrupting byte, not consumed. -/
def Obligations.SysexEndByte : Prop :=
  ∀ s : State,
    (s.slot = none → exec .sysexEnd s = .next { s with pos := s.pos + 1 }) ∧
    (∀ x d, s.slot = some (.sx x d) →
      exec .sysexEnd s = .next { s with
        pos := s.pos + 1
        slot := none
        out := s.out ++ [.event (.sysex s.cfgGroup (if x then .sxComplete else .sxEnd) d)]
        pulling := false }) ∧
    (∀ st p, s.slot = some (.cv st p) → exec .sysexEnd s = .next { s with slot := none }) ∧
    (∀ l, s.slot = some (.sp l) → exec .sysexEnd s = .next { s with slot := none }) ∧
    (∀ w, s.slot = some (.sc w) → exec .sysexEnd s = .next { s with slot := none })

/-- R150, R183 to R186, R188, R192, R193, R196: what a data byte does in every builder state, the zero-velocity note-on
included; after a channel-voice message the slot keeps the status. -/
def Obligations.DataByteInEverySlot : Prop :=
  ∀ (s : State) (v : Septet),
    (s.slot = none →
      exec (.data v) s = .next { s with pos := s.pos + 1, slot := some (.sx false [v.setWidth 8]) }) ∧
    (∀ st, s.slot = some (.cv st .one) →
      exec (.data v) s = .next { s with
        pos := s.pos + 1
        out := s.out ++ [.event (.channelVoice s.cfgGroup st (v.setWidth 8) none)]
        pulling := false }) ∧
    (∀ st, s.slot = some (.cv st (.two none)) →
      exec (.data v) s = .next { s with pos := s.pos + 1, slot := some (.cv st (.two (some v))) }) ∧
    (∀ st d1, s.slot = some (.cv st (.two (some d1))) → ¬(st >>> 4 = 9#8 ∧ v = 0#7) →
      exec (.data v) s = .next { s with
        pos := s.pos + 1
        slot := some (.cv st (.two none))
        out := s.out ++ [.event (.channelVoice s.cfgGroup st (d1.setWidth 8) (some (v.setWidth 8)))]
        pulling := false }) ∧
    (∀ st d1, s.slot = some (.cv st (.two (some d1))) → st >>> 4 = 9#8 ∧ v = 0#7 →
      exec (.data v) s = .next { s with
        pos := s.pos + 1
        slot := some (.cv st (.two none))
        out := s.out ++ [.event (.channelVoice s.cfgGroup (0x80#8 ||| (st &&& 0x0F#8)) (d1.setWidth 8) (some 0x40#8))]
        pulling := false }) ∧
    (∀ x d, s.slot = some (.sx x d) →
      exec (.data v) s = .next { s with pos := s.pos + 1, slot := some (.sx x (d ++ [v.setWidth 8])) }) ∧
    (s.slot = some (.sp none) →
      exec (.data v) s = .next { s with pos := s.pos + 1, slot := some (.sp (some v)) }) ∧
    (∀ l, s.slot = some (.sp (some l)) →
      exec (.data v) s = .next { s with
        pos := s.pos + 1
        slot := none
        out := s.out ++ [.event (.songPosition s.cfgGroup (l.setWidth 8) (v.setWidth 8))]
        pulling := false }) ∧
    (s.slot = some (.sc .qf) →
      exec (.data v) s = .next { s with
        pos := s.pos + 1
        slot := none
        out := s.out ++ [.event (.quarterFrame s.cfgGroup (v.setWidth 8))]
        pulling := false }) ∧
    (s.slot = some (.sc .ss) →
      exec (.data v) s = .next { s with
        pos := s.pos + 1
        slot := none
        out := s.out ++ [.event (.songSelect s.cfgGroup (v.setWidth 8))]
        pulling := false })

/-- R181, R190, R194, R197: every byte 0x80..0xF7 that is no terminator ends the builder in progress without being consumed, so
that the next iteration meets the same byte with no builder; and which condition that is. `done` says whether a message has
completed under the builder's status: R181 distinguishes the two, and no state records it. That conditions are labels with
this argument, and that R181 is followed where R231 is shorter, is the model's reading (log entry 14). -/
def Obligations.StatusByteInterruptsTheBuilder : Prop :=
  ∀ (s : State) (b : Byte) (B : Builder) (done : Bool), s.slot = some B → 0x80#8 ≤ b → b ≤ 0xF7#8 →
    ¬(b = 0xF7#8 ∧ ∃ x d, B = .sx x d) →
    exec (decodeByte b) s = .next (interruptedState s B) ∧
    (interruptedState s B).slot = none ∧ peek (interruptedState s B) = peek s ∧
    raised s.slot (.byte b) done =
      match B with
      | .cv _ (.two (some _)) => some .truncation
      | .cv _ _ => if done then none else some .truncation
      | .sx _ _ => some .sysexInterruption
      | .sp _ => some .truncation
      | .sc _ => some .truncation

/-! ## The Byte Encoder -/

/-- R113 to R119: the channel-voice operations, fields written as they are. -/
def Obligations.EncodeChannelVoice : Prop :=
  ∀ (s : State) (ch : Nibble) (a b : Byte),
    exec (.encNoteOff ch a b) s = .next { s with encOut := s.encOut ++ [[0x8#4 ++ ch, a, b]] } ∧
    exec (.encNoteOn ch a b) s = .next { s with encOut := s.encOut ++ [[0x9#4 ++ ch, a, b]] } ∧
    exec (.encPolyPressure ch a b) s = .next { s with encOut := s.encOut ++ [[0xA#4 ++ ch, a, b]] } ∧
    exec (.encControlChange ch a b) s = .next { s with encOut := s.encOut ++ [[0xB#4 ++ ch, a, b]] } ∧
    exec (.encProgramChange ch a) s = .next { s with encOut := s.encOut ++ [[0xC#4 ++ ch, a]] } ∧
    exec (.encChannelPressure ch a) s = .next { s with encOut := s.encOut ++ [[0xD#4 ++ ch, a]] } ∧
    exec (.encPitchBend ch a b) s = .next { s with encOut := s.encOut ++ [[0xE#4 ++ ch, a, b]] }

/-- R120 to R123: the system-common operations. -/
def Obligations.EncodeSystemCommon : Prop :=
  ∀ (s : State) (v l m n : Byte),
    exec (.encMtcQuarterFrame v) s = .next { s with encOut := s.encOut ++ [[0xF1#8, v]] } ∧
    exec (.encSongPosition l m) s = .next { s with encOut := s.encOut ++ [[0xF2#8, l, m]] } ∧
    exec (.encSongSelect n) s = .next { s with encOut := s.encOut ++ [[0xF3#8, n]] } ∧
    exec .encTuneRequest s = .next { s with encOut := s.encOut ++ [[0xF6#8]] }

/-- R124 to R128: the sysex operations, for payloads of every length and content. -/
def Obligations.EncodeSysex : Prop :=
  ∀ (s : State) (d : List Byte),
    exec (.encSysexComplete d) s = .next { s with encOut := s.encOut ++ [[0xF0#8] ++ d ++ [0xF7#8]] } ∧
    exec (.encSysexStart d) s = .next { s with encOut := s.encOut ++ [[0xF0#8] ++ d] } ∧
    exec (.encSysexContinue d) s = .next { s with encOut := s.encOut ++ [d] } ∧
    exec (.encSysexEnd d) s = .next { s with encOut := s.encOut ++ [d ++ [0xF7#8]] }

/-- R129 to R135: the realtime operations. -/
def Obligations.EncodeRealtime : Prop :=
  ∀ s : State,
    exec .encTimingClock s = .next { s with encOut := s.encOut ++ [[0xF8#8]] } ∧
    exec .encRtStart s = .next { s with encOut := s.encOut ++ [[0xFA#8]] } ∧
    exec .encRtContinue s = .next { s with encOut := s.encOut ++ [[0xFB#8]] } ∧
    exec .encRtStop s = .next { s with encOut := s.encOut ++ [[0xFC#8]] } ∧
    exec .encActiveSensing s = .next { s with encOut := s.encOut ++ [[0xFE#8]] } ∧
    exec .encRtReset s = .next { s with encOut := s.encOut ++ [[0xFF#8]] }

/-- R110: every encoder operation, in every state, hands over its encoding; it writes no other state and its bytes depend on no
state. -/
def Obligations.EncoderOperationIsItsEncoding : Prop :=
  ∀ (i : Instr) (s : State), i.codec = .enc → exec i s = .next { s with encOut := s.encOut ++ [encode i] }

/-- R112, R136: a channel-voice event is encoded by the kind of its status byte; `data2` is written exactly for the
two-data-byte kinds; an unknown kind, or a two-data-byte kind with no `data2`, is refused. -/
def Obligations.EncodeTurnByTheKindOfStatus : Prop :=
  ∀ (s : State) (rest : List Turn) (g st a : Byte) (d2 : Option Byte),
    s.agenda = .encode (.channelVoice g st a d2) :: rest →
      (st < 0x80#8 ∨ 0xF0#8 ≤ st → step s = .refused (.encoderUnknownKind st)) ∧
      (0xC0#8 ≤ st → st < 0xE0#8 →
        step s = .next { s with agenda := rest, encOut := s.encOut ++ [[st, a]] }) ∧
      ((0x80#8 ≤ st ∧ st < 0xC0#8) ∨ (0xE0#8 ≤ st ∧ st < 0xF0#8) →
        (∀ b, d2 = some b → step s = .next { s with agenda := rest, encOut := s.encOut ++ [[st, a, b]] }) ∧
        (d2 = none → step s = .refused (.encoderNoData2 st)))

/-- R120 to R124, R129: what an encode turn hands over for the six other event variants, for 8-bit fields and payloads of every
value, in conformance or not (R138). The turn is the model's form (log entry 2). -/
def Obligations.EncodeTurnOfTheOtherVariants : Prop :=
  ∀ (s : State) (rest : List Turn) (g : Byte),
    (∀ v, s.agenda = .encode (.quarterFrame g v) :: rest →
      step s = .next { s with agenda := rest, encOut := s.encOut ++ [[0xF1#8, v]] }) ∧
    (∀ l m, s.agenda = .encode (.songPosition g l m) :: rest →
      step s = .next { s with agenda := rest, encOut := s.encOut ++ [[0xF2#8, l, m]] }) ∧
    (∀ n, s.agenda = .encode (.songSelect g n) :: rest →
      step s = .next { s with agenda := rest, encOut := s.encOut ++ [[0xF3#8, n]] }) ∧
    (s.agenda = .encode (.tuneRequest g) :: rest →
      step s = .next { s with agenda := rest, encOut := s.encOut ++ [[0xF6#8]] }) ∧
    (∀ d, s.agenda = .encode (.sysex g .sxComplete d) :: rest →
      step s = .next { s with agenda := rest, encOut := s.encOut ++ [[0xF0#8] ++ d ++ [0xF7#8]] }) ∧
    (∀ d, s.agenda = .encode (.sysex g .sxStart d) :: rest →
      step s = .next { s with agenda := rest, encOut := s.encOut ++ [[0xF0#8] ++ d] }) ∧
    (∀ d, s.agenda = .encode (.sysex g .sxContinue d) :: rest →
      step s = .next { s with agenda := rest, encOut := s.encOut ++ [d] }) ∧
    (∀ d, s.agenda = .encode (.sysex g .sxEnd d) :: rest →
      step s = .next { s with agenda := rest, encOut := s.encOut ++ [d ++ [0xF7#8]] }) ∧
    (s.agenda = .encode (.realtime g .timingClock) :: rest →
      step s = .next { s with agenda := rest, encOut := s.encOut ++ [[0xF8#8]] }) ∧
    (s.agenda = .encode (.realtime g .rtStart) :: rest →
      step s = .next { s with agenda := rest, encOut := s.encOut ++ [[0xFA#8]] }) ∧
    (s.agenda = .encode (.realtime g .rtContinue) :: rest →
      step s = .next { s with agenda := rest, encOut := s.encOut ++ [[0xFB#8]] }) ∧
    (s.agenda = .encode (.realtime g .rtStop) :: rest →
      step s = .next { s with agenda := rest, encOut := s.encOut ++ [[0xFC#8]] }) ∧
    (s.agenda = .encode (.realtime g .activeSensing) :: rest →
      step s = .next { s with agenda := rest, encOut := s.encOut ++ [[0xFE#8]] }) ∧
    (s.agenda = .encode (.realtime g .rtReset) :: rest →
      step s = .next { s with agenda := rest, encOut := s.encOut ++ [[0xFF#8]] })

/-- R137: no encoding depends on `group`. -/
def Obligations.GroupDoesNotReachTheWire : Prop :=
  ∀ (s : State) (rest : List Turn) (e : Event) (g : Byte),
    step { s with agenda := .encode e :: rest } = step { s with agenda := .encode (e.withGroup g) :: rest }

/-! ## The driving loop -/

/-- Fetching: with a pull in progress and a byte at the cursor, the step runs the instruction the byte decodes to, which is
well-formed, whenever the decoder has the turn; with EMPTY or END there the step is that iteration (R211). With no pull in
progress the decoder's turn does nothing and reads nothing ahead (R210, log entry 7). An encode turn runs the operation the
event selects. The agenda and the waiting are the model's choices (log entries 2, 3). -/
def Obligations.StepRunsTheDecodedInstruction : Prop :=
  (∀ (s : State) (rest : List Turn) (b : Byte), s.pulling = true → decoderHasTurn s rest → s.src.read s.pos = some b →
    (decodeByte b).wellFormed = true ∧ step s = exec (decodeByte b) { s with agenda := rest }) ∧
  (∀ (s : State) (rest : List Turn), s.pulling = true → decoderHasTurn s rest →
    step s = iterate { s with agenda := rest }) ∧
  (∀ (s : State) (rest : List Turn), s.pulling = false → decoderHasTurn s rest →
    step s = .next { s with agenda := rest }) ∧
  (∀ (s : State) (rest : List Turn) (e : Event) (i : Instr), s.agenda = .encode e :: rest →
    selectOperation e = .ok i → step s = exec i { s with agenda := rest })

/-- R212: EMPTY answers `PENDING` at once, whenever the decoder has the turn; slot and cursor stay, whatever the slot holds; and
no other iteration answers `PENDING`. The agenda, and that a pull turn met during a pull waits and stays, are the model's choices
(log entries 2, 3). -/
def Obligations.EmptyAnswersPending : Prop :=
  (∀ (s : State) (rest : List Turn), s.pulling = true → decoderHasTurn s rest → s.src.read s.pos = none → s.ended = false →
    step s = .next { s with agenda := rest, out := s.out ++ [.pending], pulling := false }) ∧
  (∀ s t : State, iterate s = .next t → t.out = s.out ++ [.pending] → peek s = .empty)

/-- R214, R215, R182, R191, R195, R198: whenever the decoder has the turn, END with no builder answers `EXHAUSTED`; a pending
sysex is flushed as the pull's event and any other builder is dropped; the slot is `NONE` afterwards, and the cursor stays. The
agenda, and that a pull turn met during a pull waits and stays, are the model's choices (log entries 2, 3). -/
def Obligations.EndFlushesTheBuilder : Prop :=
  ∀ (s : State) (rest : List Turn), s.pulling = true → decoderHasTurn s rest → s.src.read s.pos = none → s.ended = true →
    (s.slot = none → step s = .next { s with agenda := rest, out := s.out ++ [.exhausted], pulling := false }) ∧
    (∀ x d, s.slot = some (.sx x d) →
      step s = .next { s with
        agenda := rest
        slot := none
        out := s.out ++ [.event (.sysex s.cfgGroup (if x then .sxStart else .sxContinue) d)]
        pulling := false }) ∧
    (∀ st p, s.slot = some (.cv st p) →
      step s = .next { s with agenda := rest, slot := none, out := s.out ++ [.exhausted], pulling := false }) ∧
    (∀ l, s.slot = some (.sp l) →
      step s = .next { s with agenda := rest, slot := none, out := s.out ++ [.exhausted], pulling := false }) ∧
    (∀ w, s.slot = some (.sc w) →
      step s = .next { s with agenda := rest, slot := none, out := s.out ++ [.exhausted], pulling := false })

/-- R223: one iteration, in every state and on every answer of `Peek()`, is the transition table. -/
def Obligations.IterationIsTheTransitionTable : Prop :=
  ∀ s : State,
    iterate s = .next { s with
      pos := s.pos + (table s.cfgGroup s.slot (peek s)).1
      slot := (table s.cfgGroup s.slot (peek s)).2.1
      out := s.out ++ (table s.cfgGroup s.slot (peek s)).2.2.toList
      pulling := s.pulling && (table s.cfgGroup s.slot (peek s)).2.2.isNone }

/-- R216: the cursor law. A byte that is not consumed leaves no builder, is still at the cursor, and is consumed by the next
iteration; EMPTY and END move nothing. -/
def Obligations.CursorAdvancesByZeroOrOne : Prop :=
  (∀ (s : State) (b : Byte), peek s = .byte b → advances s.slot b →
    ∃ t, iterate s = .next t ∧ t.pos = s.pos + 1) ∧
  (∀ (s : State) (b : Byte), peek s = .byte b → ¬advances s.slot b →
    ∃ t u, iterate s = .next t ∧ t.pos = s.pos ∧ t.slot = none ∧ peek t = .byte b ∧
      iterate t = .next u ∧ u.pos = s.pos + 1) ∧
  (∀ s : State, peek s = .empty ∨ peek s = .ended → ∃ t, iterate s = .next t ∧ t.pos = s.pos)

/-- R213: an iteration gives at most one answer, and giving one ends the pull in that iteration; without one the pull goes on.
On a byte the answer is an event of the decoder's group. -/
def Obligations.OneAnswerEndsThePull : Prop :=
  ∀ s t : State, iterate s = .next t →
    (t.out = s.out ∧ t.pulling = s.pulling) ∨
    (∃ r, t.out = s.out ++ [r] ∧ t.pulling = false ∧
      (∀ b, peek s = .byte b → ∃ e, r = .event e ∧ e.group = s.cfgGroup))

/-- R217: a pull over `n` bytes not yet consumed is answered within `2n + 1` iterations. -/
def Obligations.PullEndsWithinItsBound : Prop :=
  ∀ s : State, Inv s → s.pulling = true → s.agenda = [] →
    ∃ k t, k ≤ 2 * (s.src.bytes.length - s.pos) + 1 ∧ Host.Core.run core k s = .next t ∧ t.pulling = false ∧
      ∃ r, t.out = s.out ++ [r]

/-- Conditions and their effects (60_exceptions.md R231 to R234): the label of an iteration tells what it did to the cursor and
the slot. UNKNOWN_KIND is never raised. `done` as in StatusByteInterruptsTheBuilder (log entry 14). -/
def Obligations.ConditionsTellTheirEffect : Prop :=
  ∀ (s : State) (done : Bool) (c : Condition), raised s.slot (peek s) done = some c →
    c ≠ .unknownKind ∧ ∃ t, iterate s = .next t ∧
      (c = .truncation → t.slot = none ∧ t.pos = s.pos ∧ eventsOf t.out = eventsOf s.out) ∧
      (c = .reservedByte → t.slot = s.slot ∧ t.pos = s.pos + 1 ∧ t.out = s.out ∧ t.pulling = s.pulling) ∧
      (c = .sysexInterruption → ∃ x d, s.slot = some (.sx x d) ∧ t.slot = none ∧ t.pos = s.pos ∧
        t.out = s.out ++ [.event (.sysex s.cfgGroup (if x then .sxStart else .sxContinue) d)])

/-! ## The outside world -/

/-- R260: reset makes the slot `NONE` and attaches a new source; what the slot held is dropped with no event. That
a pull in progress and the answers given stay is the model's reading (log entry 4). -/
def Obligations.ResetDropsTheBuilder : Prop :=
  ∀ (s : State) (rest : List Turn), s.agenda = .reset :: rest →
    step s = .next { s with slot := none, pos := 0, src := [], ended := false, agenda := rest }

/-- R34: the state after reset: no builder, the cursor at the first byte, `cfg_group` at `GROUP` (OPEN: the opaque constant of log
entry 1), which it keeps: no step of any kind writes it; a data byte met first starts a sysex continuation. -/
def Obligations.StateAfterReset : Prop :=
  State.reset.slot = none ∧ State.reset.pos = 0 ∧ State.reset.cfgGroup = Config.group ∧
  (∀ s t : State, step s = .next t → t.cfgGroup = s.cfgGroup) ∧
  ∀ v : Septet, ∃ t, exec (.data v) State.reset = .next t ∧ t.slot = some (.sx false [v.setWidth 8])

/-- The transport and the consumer (R41, R46, R210): a byte is appended at the next index, END is signalled, a pull is
accepted when none is in progress. A byte after END is refused (D19, U14). The turns are the model's form (log entries 2, 6,
18). -/
def Obligations.OutsideTransactions : Prop :=
  ∀ (s : State) (rest : List Turn),
    (∀ b, s.agenda = .present b :: rest → s.ended = false → Inv s →
      ∃ t, step s = .next t ∧ t = { s with agenda := rest, src := t.src } ∧ t.src.bytes = s.src.bytes ++ [b] ∧
        t.src.read s.src.bytes.length = some b ∧ (∀ a, a ≠ s.src.bytes.length → t.src.read a = s.src.read a)) ∧
    (∀ b, s.agenda = .present b :: rest → s.ended = true → step s = .refused (.byteAfterEnd b)) ∧
    (s.agenda = .finish :: rest → step s = .next { s with agenda := rest, ended := true }) ∧
    (s.agenda = .pull :: rest → s.pulling = false → step s = .next { s with agenda := rest, pulling := true })

/-! ## Frames and invariants of the whole machine -/

/-- No decoder instruction writes the byte source, the END signal, `cfg_group`, the encoder's output or the agenda (R28, R55,
R32), whatever the state. -/
def Obligations.DecoderInstructionFrame : Prop :=
  ∀ (i : Instr) (s : State), i.codec = .dec →
    ∃ t, exec i s = .next t ∧ (∀ a, t.src.read a = s.src.read a) ∧ t.src = s.src ∧ t.ended = s.ended ∧
      t.cfgGroup = s.cfgGroup ∧ t.encOut = s.encOut ∧ t.agenda = s.agenda

/-- A step that is not a reset never takes back: the cursor moves by zero or one, presented bytes stay, END stays, answers and
encodings already given stay (R44, R46, R47). -/
def Obligations.StepNeverTakesBack : Prop :=
  ∀ s t : State, s.src.wf = true → step s = .next t → s.agenda.head? ≠ some .reset →
    (t.pos = s.pos ∨ t.pos = s.pos + 1) ∧ (∀ a b, s.src.read a = some b → t.src.read a = some b) ∧
    (s.ended = true → t.ended = true) ∧ t.cfgGroup = s.cfgGroup ∧
    (∃ r, t.out = s.out ++ r) ∧ (∃ r, t.encOut = s.encOut ++ r)

/-- A step is refused only where the spec puts the case outside the model: a byte after END, or an event outside the encoder's
domain (R136, D19); and never by an iteration of the decoder (R73, R230). -/
def Obligations.RefusedOnlyOutsideTheDomain : Prop :=
  ∀ (s : State) (r : Refusal), step s = .refused r →
    (∃ b rest, s.agenda = .present b :: rest ∧ s.ended = true ∧ r = .byteAfterEnd b) ∨
    (∃ g st a d2 rest, s.agenda = .encode (.channelVoice g st a d2) :: rest ∧
      ((kindOf st = none ∧ r = .encoderUnknownKind st) ∨
        (∃ k, kindOf st = some k ∧ k.need = .two ∧ d2 = none ∧ r = .encoderNoData2 st)))

/-- The invariant of 10_state.md R35 and 40_event_model.md R101 holds after reset (the empty source and transcripts are the
model's: log entries 5, 8). -/
def Obligations.InvariantAfterReset : Prop := Inv State.reset

/-- Every step keeps the invariant: the builder's fields agree, the byte source stays a canonical sequence with the cursor inside
it, and every event emitted is one R101 allows, of the decoder's group. -/
def Obligations.StepKeepsTheInvariant : Prop :=
  ∀ s t : State, Inv s → step s = .next t → Inv t

/-! ## Whole streams -/

/-- `decode(bytes)` ends, whatever the bytes: every pull is answered, the last one `EXHAUSTED`, every byte is consumed exactly
once and no builder is left (R222, R73, R220). -/
def Obligations.EveryStreamIsExhausted : Prop :=
  ∀ (g : Byte) (bytes : List Byte),
    ∃ t, Host.Core.run core (stepsOnStream bytes) (onStream g bytes) = .next t ∧ t.agenda = [] ∧ t.pulling = false ∧
      t.slot = none ∧ t.pos = bytes.length ∧ t.out.getLast? = some .exhausted ∧ eventsOf t.out = decodeStream g bytes

/-- R101: what every event of every stream satisfies, and that the two empty sysex events do occur. -/
def Obligations.DecodedEventsAreWellFormed : Prop :=
  (∀ (g : Byte) (bytes : List Byte) (e : Event), e ∈ decodeStream g bytes → e.group = g ∧
    match e with
    | .channelVoice _ s a d2 =>
      0x80#8 ≤ s ∧ s ≤ 0xEF#8 ∧ isDataByte a ∧
      (0xC0#8 ≤ s ∧ s ≤ 0xDF#8 → d2 = none) ∧
      (¬(0xC0#8 ≤ s ∧ s ≤ 0xDF#8) → ∃ d, d2 = some d ∧ isDataByte d) ∧
      ¬(0x90#8 ≤ s ∧ s ≤ 0x9F#8 ∧ d2 = some 0#8)
    | .quarterFrame _ v => isDataByte v
    | .songPosition _ l m => isDataByte l ∧ isDataByte m
    | .songSelect _ n => isDataByte n
    | .tuneRequest _ => True
    | .sysex _ k d => (∀ b ∈ d, isDataByte b) ∧ (k = .sxContinue ∨ k = .sxEnd → d ≠ [])
    | .realtime _ _ => True) ∧
  (∀ g : Byte, ∃ bytes, Event.sysex g .sxStart [] ∈ decodeStream g bytes) ∧
  (∀ g : Byte, ∃ bytes, Event.sysex g .sxComplete [] ∈ decodeStream g bytes)

/-- R225: every valid event of the decoder's group survives encoding and decoding, but for the zero-velocity noteOn, which comes
back as a noteOff, and the two empty sysex fragments, which come back as nothing; and `decode` is not injective, nor does the
decoding of a concatenation always give the events back. -/
def Obligations.RoundTripOfEveryValidEvent : Prop :=
  (∀ (g : Byte) (e : Event), e.valid = true → e.group = g →
    ∃ bytes, encodesTo e bytes ∧ decodeStream g bytes = survivors e) ∧
  (∀ g : Byte, ∃ a b : List Byte, a ≠ b ∧ decodeStream g a = decodeStream g b) ∧
  (∀ g : Byte, ∃ (e f : Event) (a b : List Byte), e.valid = true ∧ f.valid = true ∧ e.group = g ∧ f.group = g ∧
    encodesTo e a ∧ encodesTo f b ∧ decodeStream g a = [e] ∧ decodeStream g b = [f] ∧ decodeStream g (a ++ b) ≠ [e, f])

/-- Realtime bytes are transparent (R69, R141): taking them out of the stream takes out exactly their own events; the realtime
events are those of the defined realtime bytes in order; and one inserted byte inserts its event after the events that the
bytes before it have completed (R224). Those are all the events of these bytes, but for a sysex fragment that only END flushes:
one that a further data byte would have extended (R191). -/
def Obligations.RealtimeBytesAreTransparent : Prop :=
  ∀ g : Byte,
    (∀ bytes, (decodeStream g bytes).filter (fun e => !e.isRealtime) =
      decodeStream g (bytes.filter fun b => decide (b < 0xF8#8))) ∧
    (∀ bytes, (decodeStream g bytes).filter Event.isRealtime =
      bytes.filterMap fun b => (realtimeOf b).map (Event.realtime g)) ∧
    (∀ xs, ∃ before due, decodeStream g xs = before ++ due ∧
      (due = [] ∨ ∃ kind d, (kind = .sxStart ∨ kind = .sxContinue) ∧ due = [.sysex g kind d] ∧
        decodeStream g (xs ++ [0x00#8]) = before ++ [.sysex g kind (d ++ [0x00#8])]) ∧
      ∀ ys, ∃ after, decodeStream g (xs ++ ys) = before ++ after ∧
        ∀ b k, realtimeOf b = some k → decodeStream g (xs ++ b :: ys) = before ++ Event.realtime g k :: after)

/-- Running status (R67, R187): data bytes after a complete channel-voice message decode as if the status byte were repeated
before each message, for messages of any number; and which events those are, the zero-velocity note-on included (R183, R185,
R186). -/
def Obligations.RunningStatusRepeatsTheStatus : Prop :=
  ∀ (g s : Byte), 0x80#8 ≤ s → s ≤ 0xEF#8 →
    (¬(0xC0#8 ≤ s ∧ s ≤ 0xDF#8) → ∀ pairs : List (Byte × Byte),
      (∀ p ∈ pairs, isDataByte p.1 ∧ isDataByte p.2) →
        decodeStream g (s :: pairs.flatMap fun p => [p.1, p.2]) =
          decodeStream g (pairs.flatMap fun p => [s, p.1, p.2]) ∧
        decodeStream g (s :: pairs.flatMap fun p => [p.1, p.2]) =
          pairs.map fun p =>
            if s >>> 4 = 9#8 ∧ p.2 = 0#8 then .channelVoice g (0x80#8 ||| (s &&& 0xF#8)) p.1 (some 0x40#8)
            else .channelVoice g s p.1 (some p.2)) ∧
    (0xC0#8 ≤ s ∧ s ≤ 0xDF#8 → ∀ ds : List Byte, (∀ d ∈ ds, isDataByte d) →
      decodeStream g (s :: ds) = decodeStream g (ds.flatMap fun d => [s, d]) ∧
        decodeStream g (s :: ds) = ds.map fun d => .channelVoice g s d none)

/-- R221: however the transport, the consumer and the encoder's callers take turns (no reset among them), the events a decoder
has given are at every moment the first events of those of the bytes presented, and once it has answered `EXHAUSTED` they are
all of them; before END they are the first events of every continuation of those bytes too. Where EMPTY falls changes no event.
The agenda is the model's form (log entries 2, 3). -/
def Obligations.ScheduleDoesNotChangeTheEvents : Prop :=
  ∀ (g : Byte) (agenda : List Turn) (k : Nat) (t : State), Turn.reset ∉ agenda →
    Host.Core.run core k { State.reset with cfgGroup := g, agenda := agenda } = .next t →
      (∃ later, decodeStream g t.src.bytes = eventsOf t.out ++ later) ∧
      (PullResult.exhausted ∈ t.out → eventsOf t.out = decodeStream g t.src.bytes) ∧
      (t.ended = false → ∀ more, ∃ later, decodeStream g (t.src.bytes ++ more) = eventsOf t.out ++ later)

/-- The source's test properties (95_test_vectors.md E3 to E8), for every data value, channel and sysex payload: running status,
realtime interleaving, truncation and resynchronisation, zero velocity, a sysex interrupted by a message, and each of the five
reserved bytes before a message. -/
def Obligations.SourceTestProperties : Prop :=
  ∀ (g n v n' v' : Byte) (ch ch' : Nibble) (d : List Byte),
    isDataByte n → isDataByte v → isDataByte n' → isDataByte v' → (∀ b ∈ d, isDataByte b) →
    decodeStream g [0x8#4 ++ ch, n, v, n', v'] =
      [.channelVoice g (0x8#4 ++ ch) n (some v), .channelVoice g (0x8#4 ++ ch) n' (some v')] ∧
    decodeStream g [0x8#4 ++ ch, 0xFF#8, n, 0xFF#8, v] =
      [.realtime g .rtReset, .realtime g .rtReset, .channelVoice g (0x8#4 ++ ch) n (some v)] ∧
    decodeStream g [0x8#4 ++ ch, n] = [] ∧
    decodeStream g [0x8#4 ++ ch, n, 0x8#4 ++ ch', n', v'] = [.channelVoice g (0x8#4 ++ ch') n' (some v')] ∧
    decodeStream g [0x9#4 ++ ch, n, 0x00#8] = [.channelVoice g (0x8#4 ++ ch) n (some 0x40#8)] ∧
    decodeStream g (0xF0#8 :: d ++ [0x8#4 ++ ch, n, v]) =
      [.sysex g .sxStart d, .channelVoice g (0x8#4 ++ ch) n (some v)] ∧
    (∀ r ∈ [0xF4#8, 0xF5#8, 0xF7#8, 0xF9#8, 0xFD#8],
      decodeStream g [r, 0x8#4 ++ ch, n, v] = [.channelVoice g (0x8#4 ++ ch) n (some v)])
end

