-- ==== Sys2Proof/Laws/Decode.lean ====
section
/-! SUPPORT. What the pieces of the decoder answer on the bytes the encoder writes, and the opcode table's masks and matches. -/

namespace Sys2Proof
open Sys2Proof.Machine

/-- The bits of a status byte built from a kind nibble and a channel, 0x8..0xE (R61, R98). -/
theorem kindOf_status (k : CvKind) (ch : Nibble) : kindOf (k.nibble ++ ch) = some k := by
  revert ch; cases k <;> decide

@[simp] theorem lowNibble_append (n ch : Nibble) : lowNibble (n ++ ch) = ch := by
  revert n ch; decide

theorem isData_status (k : CvKind) (ch : Nibble) : isData (k.nibble ++ ch : Byte) = false := by
  revert ch; cases k <;> decide

/-- The two ways the spec writes a status byte agree: the pattern of R61 and the formula of R100. -/
theorem status_channelField (k : CvKind) (ch : Nibble) : status k (channelField ch) = k.nibble ++ ch := by
  revert ch; cases k <;> decide

/-- A status byte is put together again from its kind and its low nibble (R100). -/
theorem status_of_kindOf {s : Byte} {k : CvKind} (h : kindOf s = some k) : k.nibble ++ lowNibble s = s := by
  revert s; cases k <;> decide

@[simp] theorem splitData_nil : splitData [] = ([], []) := rfl

theorem splitData_data {d : List Byte} (h : d.all isData = true) : splitData d = (d, []) := by
  induction d with
  | nil => rfl
  | cons b d ih =>
    simp only [List.all_cons, Bool.and_eq_true] at h
    simp [splitData, h.1, ih h.2]

theorem splitData_data_then {d : List Byte} (h : d.all isData = true) {b : Byte} (hb : isData b = false)
    (rest : List Byte) : splitData (d ++ b :: rest) = (d, b :: rest) := by
  induction d with
  | nil => simp [splitData, hb]
  | cons c d ih =>
    simp only [List.all_cons, Bool.and_eq_true] at h
    simp [splitData, h.1, ih h.2]

/-- `splitData` loses nothing. -/
theorem splitData_append (bytes : List Byte) : (splitData bytes).1 ++ (splitData bytes).2 = bytes := by
  induction bytes with
  | nil => rfl
  | cons b bs ih =>
    simp only [splitData]
    split <;> simp [ih]

theorem splitData_all (bytes : List Byte) : (splitData bytes).1.all isData = true := by
  induction bytes with
  | nil => rfl
  | cons b bs ih =>
    simp only [splitData]
    split
    · rename_i h; simp only [List.all_cons, h, ih, Bool.and_self]
    · rfl

/-- `decodeByte` on a channel-voice status byte. -/
theorem decodeByte_status (k : CvKind) (ch : Nibble) :
    decodeByte (k.nibble ++ ch) =
      match k with
      | .noteOff => .noteOff ch
      | .noteOn => .noteOn ch
      | .polyPressure => .polyPressure ch
      | .controlChange => .controlChange ch
      | .programChange => .programChange ch
      | .channelPressure => .channelPressure ch
      | .pitchBend => .pitchBend ch := by
  cases k <;> simp [decodeByte, isData_status, kindOf_status]

/-- The byte a decoder instruction stands for is the byte it was decoded from. -/
theorem encode_decodeByte (b : Byte) : encode (decodeByte b) = [b] := by
  revert b; decide

theorem codec_decodeByte (b : Byte) : (decodeByte b).codec = .dec := by
  revert b; decide

/-- Every byte is a well-formed instruction of the decoder (R63, R73). -/
theorem wellFormed_decodeByte (b : Byte) : (decodeByte b).wellFormed = true := by
  revert b; decide

/-- `mask`, `match` and the mnemonic of each decoder row of spec/opcode_table.json, in the table's order. -/
def decoderRows : List (Byte × Byte × String) :=
  [(0x80, 0x00, "DATA"), (0xF0, 0x80, "NOTE_OFF"), (0xF0, 0x90, "NOTE_ON"), (0xF0, 0xA0, "POLY_PRESSURE"),
    (0xF0, 0xB0, "CONTROL_CHANGE"), (0xF0, 0xC0, "PROGRAM_CHANGE"), (0xF0, 0xD0, "CHANNEL_PRESSURE"),
    (0xF0, 0xE0, "PITCH_BEND")] ++
  [(0xFF, 0xF0, "SYSEX_START"), (0xFF, 0xF1, "MTC_QUARTER_FRAME"), (0xFF, 0xF2, "SONG_POSITION"),
    (0xFF, 0xF3, "SONG_SELECT"), (0xFF, 0xF4, "RESERVED_F4"), (0xFF, 0xF5, "RESERVED_F5"), (0xFF, 0xF6, "TUNE_REQUEST"),
    (0xFF, 0xF7, "SYSEX_END")] ++
  [(0xFF, 0xF8, "TIMING_CLOCK"), (0xFF, 0xF9, "RESERVED_F9"), (0xFF, 0xFA, "RT_START"), (0xFF, 0xFB, "RT_CONTINUE"),
    (0xFF, 0xFC, "RT_STOP"), (0xFF, 0xFD, "RESERVED_FD"), (0xFF, 0xFE, "ACTIVE_SENSING"), (0xFF, 0xFF, "RT_RESET")]

/-- The mnemonic of a decoder instruction; an encoder operation has none here. -/
def decoderMnemonic : Instr → String
  | .data _ => "DATA"
  | .noteOff _ => "NOTE_OFF"
  | .noteOn _ => "NOTE_ON"
  | .polyPressure _ => "POLY_PRESSURE"
  | .controlChange _ => "CONTROL_CHANGE"
  | .programChange _ => "PROGRAM_CHANGE"
  | .channelPressure _ => "CHANNEL_PRESSURE"
  | .pitchBend _ => "PITCH_BEND"
  | .sysexStart => "SYSEX_START"
  | .mtcQuarterFrame => "MTC_QUARTER_FRAME"
  | .songPosition => "SONG_POSITION"
  | .songSelect => "SONG_SELECT"
  | .reservedF4 => "RESERVED_F4"
  | .reservedF5 => "RESERVED_F5"
  | .tuneRequest => "TUNE_REQUEST"
  | .sysexEnd => "SYSEX_END"
  | .timingClock => "TIMING_CLOCK"
  | .reservedF9 => "RESERVED_F9"
  | .rtStart => "RT_START"
  | .rtContinue => "RT_CONTINUE"
  | .rtStop => "RT_STOP"
  | .reservedFD => "RESERVED_FD"
  | .activeSensing => "ACTIVE_SENSING"
  | .rtReset => "RT_RESET"
  | _ => ""

/-- Every byte matches exactly one decoder row of the opcode table, and it is the row of the instruction `decodeByte` reads
(R63, R76): the rows do not overlap and leave no byte out. -/
theorem decodeByte_matches_one_row (b : Byte) :
    (decoderRows.filter (fun r => b &&& r.1 == r.2.1)).map (fun r => r.2.2) = [decoderMnemonic (decodeByte b)] := by
  revert b; decide

end Sys2Proof
end

