-- ==== Sys2Proof/Laws/State.lean ====
section
/-! SUPPORT. One lemma per field per update of the state, each true by definition. -/

namespace Sys2Proof.Machine

variable (s : State)

/-! ## `consume` -/

@[simp] theorem consume_slot : (consume s).slot = s.slot := rfl
@[simp] theorem consume_pos : (consume s).pos = s.pos + 1 := rfl
@[simp] theorem consume_src : (consume s).src = s.src := rfl
@[simp] theorem consume_ended : (consume s).ended = s.ended := rfl
@[simp] theorem consume_cfgGroup : (consume s).cfgGroup = s.cfgGroup := rfl
@[simp] theorem consume_pulling : (consume s).pulling = s.pulling := rfl
@[simp] theorem consume_out : (consume s).out = s.out := rfl
@[simp] theorem consume_encOut : (consume s).encOut = s.encOut := rfl
@[simp] theorem consume_agenda : (consume s).agenda = s.agenda := rfl

/-! ## `setSlot` -/

@[simp] theorem setSlot_slot (v : Option Builder) : (setSlot v s).slot = v := rfl
@[simp] theorem setSlot_pos (v : Option Builder) : (setSlot v s).pos = s.pos := rfl
@[simp] theorem setSlot_src (v : Option Builder) : (setSlot v s).src = s.src := rfl
@[simp] theorem setSlot_ended (v : Option Builder) : (setSlot v s).ended = s.ended := rfl
@[simp] theorem setSlot_cfgGroup (v : Option Builder) : (setSlot v s).cfgGroup = s.cfgGroup := rfl
@[simp] theorem setSlot_pulling (v : Option Builder) : (setSlot v s).pulling = s.pulling := rfl
@[simp] theorem setSlot_out (v : Option Builder) : (setSlot v s).out = s.out := rfl
@[simp] theorem setSlot_encOut (v : Option Builder) : (setSlot v s).encOut = s.encOut := rfl
@[simp] theorem setSlot_agenda (v : Option Builder) : (setSlot v s).agenda = s.agenda := rfl

/-! ## `answer` -/

@[simp] theorem answer_slot (r : PullResult) : (answer r s).slot = s.slot := rfl
@[simp] theorem answer_pos (r : PullResult) : (answer r s).pos = s.pos := rfl
@[simp] theorem answer_src (r : PullResult) : (answer r s).src = s.src := rfl
@[simp] theorem answer_ended (r : PullResult) : (answer r s).ended = s.ended := rfl
@[simp] theorem answer_cfgGroup (r : PullResult) : (answer r s).cfgGroup = s.cfgGroup := rfl
@[simp] theorem answer_pulling (r : PullResult) : (answer r s).pulling = false := rfl
@[simp] theorem answer_out (r : PullResult) : (answer r s).out = s.out ++ [r] := rfl
@[simp] theorem answer_encOut (r : PullResult) : (answer r s).encOut = s.encOut := rfl
@[simp] theorem answer_agenda (r : PullResult) : (answer r s).agenda = s.agenda := rfl

/-! ## `emit` -/

@[simp] theorem emit_slot (e : Event) : (emit e s).slot = s.slot := rfl
@[simp] theorem emit_pos (e : Event) : (emit e s).pos = s.pos := rfl
@[simp] theorem emit_src (e : Event) : (emit e s).src = s.src := rfl
@[simp] theorem emit_ended (e : Event) : (emit e s).ended = s.ended := rfl
@[simp] theorem emit_cfgGroup (e : Event) : (emit e s).cfgGroup = s.cfgGroup := rfl
@[simp] theorem emit_pulling (e : Event) : (emit e s).pulling = false := rfl
@[simp] theorem emit_out (e : Event) : (emit e s).out = s.out ++ [.event e] := rfl
@[simp] theorem emit_encOut (e : Event) : (emit e s).encOut = s.encOut := rfl
@[simp] theorem emit_agenda (e : Event) : (emit e s).agenda = s.agenda := rfl

/-! ## `deliver` -/

@[simp] theorem deliver_slot (bs : List Byte) : (deliver bs s).slot = s.slot := rfl
@[simp] theorem deliver_pos (bs : List Byte) : (deliver bs s).pos = s.pos := rfl
@[simp] theorem deliver_src (bs : List Byte) : (deliver bs s).src = s.src := rfl
@[simp] theorem deliver_ended (bs : List Byte) : (deliver bs s).ended = s.ended := rfl
@[simp] theorem deliver_cfgGroup (bs : List Byte) : (deliver bs s).cfgGroup = s.cfgGroup := rfl
@[simp] theorem deliver_pulling (bs : List Byte) : (deliver bs s).pulling = s.pulling := rfl
@[simp] theorem deliver_out (bs : List Byte) : (deliver bs s).out = s.out := rfl
@[simp] theorem deliver_encOut (bs : List Byte) : (deliver bs s).encOut = s.encOut ++ [bs] := rfl
@[simp] theorem deliver_agenda (bs : List Byte) : (deliver bs s).agenda = s.agenda := rfl

/-! ## `discardBuilder` -/

@[simp] theorem discardBuilder_slot : (discardBuilder s).slot = none := rfl
@[simp] theorem discardBuilder_pos : (discardBuilder s).pos = s.pos := rfl
@[simp] theorem discardBuilder_src : (discardBuilder s).src = s.src := rfl
@[simp] theorem discardBuilder_ended : (discardBuilder s).ended = s.ended := rfl
@[simp] theorem discardBuilder_cfgGroup : (discardBuilder s).cfgGroup = s.cfgGroup := rfl
@[simp] theorem discardBuilder_pulling : (discardBuilder s).pulling = s.pulling := rfl
@[simp] theorem discardBuilder_out : (discardBuilder s).out = s.out := rfl
@[simp] theorem discardBuilder_encOut : (discardBuilder s).encOut = s.encOut := rfl
@[simp] theorem discardBuilder_agenda : (discardBuilder s).agenda = s.agenda := rfl

/-! ## `interruptSysex` -/

@[simp] theorem interruptSysex_slot (e : Event) : (interruptSysex e s).slot = none := rfl
@[simp] theorem interruptSysex_pos (e : Event) : (interruptSysex e s).pos = s.pos := rfl
@[simp] theorem interruptSysex_src (e : Event) : (interruptSysex e s).src = s.src := rfl
@[simp] theorem interruptSysex_ended (e : Event) : (interruptSysex e s).ended = s.ended := rfl
@[simp] theorem interruptSysex_cfgGroup (e : Event) : (interruptSysex e s).cfgGroup = s.cfgGroup := rfl
@[simp] theorem interruptSysex_pulling (e : Event) : (interruptSysex e s).pulling = false := rfl
@[simp] theorem interruptSysex_out (e : Event) : (interruptSysex e s).out = s.out ++ [.event e] := rfl
@[simp] theorem interruptSysex_encOut (e : Event) : (interruptSysex e s).encOut = s.encOut := rfl
@[simp] theorem interruptSysex_agenda (e : Event) : (interruptSysex e s).agenda = s.agenda := rfl

/-! ## `dropByte` -/

@[simp] theorem dropByte_slot : (dropByte s).slot = s.slot := rfl
@[simp] theorem dropByte_pos : (dropByte s).pos = s.pos + 1 := rfl
@[simp] theorem dropByte_src : (dropByte s).src = s.src := rfl
@[simp] theorem dropByte_ended : (dropByte s).ended = s.ended := rfl
@[simp] theorem dropByte_cfgGroup : (dropByte s).cfgGroup = s.cfgGroup := rfl
@[simp] theorem dropByte_pulling : (dropByte s).pulling = s.pulling := rfl
@[simp] theorem dropByte_out : (dropByte s).out = s.out := rfl
@[simp] theorem dropByte_encOut : (dropByte s).encOut = s.encOut := rfl
@[simp] theorem dropByte_agenda : (dropByte s).agenda = s.agenda := rfl

/-! ## `signalEnd` -/

@[simp] theorem signalEnd_slot : (signalEnd s).slot = s.slot := rfl
@[simp] theorem signalEnd_pos : (signalEnd s).pos = s.pos := rfl
@[simp] theorem signalEnd_src : (signalEnd s).src = s.src := rfl
@[simp] theorem signalEnd_ended : (signalEnd s).ended = true := rfl
@[simp] theorem signalEnd_cfgGroup : (signalEnd s).cfgGroup = s.cfgGroup := rfl
@[simp] theorem signalEnd_pulling : (signalEnd s).pulling = s.pulling := rfl
@[simp] theorem signalEnd_out : (signalEnd s).out = s.out := rfl
@[simp] theorem signalEnd_encOut : (signalEnd s).encOut = s.encOut := rfl
@[simp] theorem signalEnd_agenda : (signalEnd s).agenda = s.agenda := rfl

/-! ## `beginPull` -/

@[simp] theorem beginPull_slot : (beginPull s).slot = s.slot := rfl
@[simp] theorem beginPull_pos : (beginPull s).pos = s.pos := rfl
@[simp] theorem beginPull_src : (beginPull s).src = s.src := rfl
@[simp] theorem beginPull_ended : (beginPull s).ended = s.ended := rfl
@[simp] theorem beginPull_cfgGroup : (beginPull s).cfgGroup = s.cfgGroup := rfl
@[simp] theorem beginPull_pulling : (beginPull s).pulling = true := rfl
@[simp] theorem beginPull_out : (beginPull s).out = s.out := rfl
@[simp] theorem beginPull_encOut : (beginPull s).encOut = s.encOut := rfl
@[simp] theorem beginPull_agenda : (beginPull s).agenda = s.agenda := rfl

/-! ## `resetDecoder` -/

@[simp] theorem resetDecoder_slot : (resetDecoder s).slot = none := rfl
@[simp] theorem resetDecoder_pos : (resetDecoder s).pos = 0 := rfl
@[simp] theorem resetDecoder_src : (resetDecoder s).src = [] := rfl
@[simp] theorem resetDecoder_ended : (resetDecoder s).ended = false := rfl
@[simp] theorem resetDecoder_cfgGroup : (resetDecoder s).cfgGroup = s.cfgGroup := rfl
@[simp] theorem resetDecoder_pulling : (resetDecoder s).pulling = s.pulling := rfl
@[simp] theorem resetDecoder_out : (resetDecoder s).out = s.out := rfl
@[simp] theorem resetDecoder_encOut : (resetDecoder s).encOut = s.encOut := rfl
@[simp] theorem resetDecoder_agenda : (resetDecoder s).agenda = s.agenda := rfl

/-! ## `popTurn` -/

@[simp] theorem popTurn_slot (rest : List Turn) : (popTurn rest s).slot = s.slot := rfl
@[simp] theorem popTurn_pos (rest : List Turn) : (popTurn rest s).pos = s.pos := rfl
@[simp] theorem popTurn_src (rest : List Turn) : (popTurn rest s).src = s.src := rfl
@[simp] theorem popTurn_ended (rest : List Turn) : (popTurn rest s).ended = s.ended := rfl
@[simp] theorem popTurn_cfgGroup (rest : List Turn) : (popTurn rest s).cfgGroup = s.cfgGroup := rfl
@[simp] theorem popTurn_pulling (rest : List Turn) : (popTurn rest s).pulling = s.pulling := rfl
@[simp] theorem popTurn_out (rest : List Turn) : (popTurn rest s).out = s.out := rfl
@[simp] theorem popTurn_encOut (rest : List Turn) : (popTurn rest s).encOut = s.encOut := rfl
@[simp] theorem popTurn_agenda (rest : List Turn) : (popTurn rest s).agenda = rest := rfl

end Sys2Proof.Machine
end

