-- ==== Sys2Proof/Laws/Iterate.lean ====
section
/-! SUPPORT. What one iteration can do, said once: it is a *move* of the cursor, the slot and the answer, and nothing else of the
state changes. Later proofs cite `exec_decodeByte` and `iterate_eq` and never unfold an instruction's meaning. -/

namespace Sys2Proof.Machine

/-- What an iteration does: whether it consumes, the new slot, and the answer to the pull if there is one. -/
structure Move where
  consumes : Bool
  slot : Option Builder
  reply : Option PullResult
  deriving DecidableEq, Repr

/-- The state after a move. -/
def applyMove (m : Move) (s : State) : State :=
  { s with
    pos := if m.consumes then s.pos + 1 else s.pos
    slot := m.slot
    out := s.out ++ m.reply.toList
    pulling := m.reply.isNone && s.pulling }

/-- The move of a feed result (R167). -/
def feedMove : FeedResult → Move
  | .keep B => ⟨true, some B, none⟩
  | .completed e slot => ⟨true, slot, some (.event e)⟩
  | .failed => ⟨false, none, none⟩
  | .interrupted e => ⟨false, none, some (.event e)⟩

/-- The move of a system-common byte with no builder, by its low nibble (R159 to R166). -/
def openSystemMove (g : Byte) (n : Nibble) : Move :=
  match n.toNat with
  | 0 => ⟨true, some (.sx true []), none⟩
  | 1 => ⟨true, some (.sc .qf), none⟩
  | 2 => ⟨true, some (.sp none), none⟩
  | 3 => ⟨true, some (.sc .ss), none⟩
  | 6 => ⟨true, none, some (.event (.tuneRequest g))⟩
  | _ => ⟨true, none, none⟩

/-- The move of a byte below 0xF8 with no builder (R150, R151, R159 to R166). -/
def openMove (g b : Byte) : Move :=
  if isData b then ⟨true, some (.sx false [b]), none⟩
  else
    match kindOf b with
    | some k => ⟨true, some (.cv b (Progress.fresh k.need)), none⟩
    | none => openSystemMove g (lowNibble b)

/-- The move of a byte (R140). -/
def byteMove (g : Byte) (slot : Option Builder) (b : Byte) : Move :=
  if isRealtime b then ⟨true, slot, (realtimeOf b).map fun k => .event (.realtime g k)⟩
  else
    match slot with
    | some B => feedMove (feedByte g B b)
    | none => openMove g b

/-- The move of EMPTY or END (R212, R214, R215). -/
def endMove (g : Byte) : Option Builder → Move
  | some (.sx x d) => ⟨false, none, some (.event (.sysex g (openKind x) d))⟩
  | _ => ⟨false, none, some .exhausted⟩

theorem applyFeed_eq (r : FeedResult) (s : State) : applyFeed r s = applyMove (feedMove r) s := by
  cases r <;> simp [applyFeed, feedMove, applyMove, setSlot, consume, emit, answer, discardBuilder, interruptSysex]

/-- The one thing `feedOrOpen` can do with a byte below 0xF8. -/
theorem feedOrOpen_eq {g b : Byte} {opening : State → State} {s : State} (hg : s.cfgGroup = g)
    (hb : isRealtime b = false) (ho : s.slot = none → opening s = applyMove (openMove g b) s) :
    feedOrOpen opening b s = .next (applyMove (byteMove g s.slot b) s) := by
  subst hg
  unfold feedOrOpen byteMove
  cases h : s.slot with
  | none => simp [hb, ho h]
  | some B => simp [hb, applyFeed_eq, feed]

theorem realtimeByte_eq {b : Byte} (hb : isRealtime b = true) (s : State) :
    realtimeByte b s = .next (applyMove (byteMove s.cfgGroup s.slot b) s) := by
  unfold realtimeByte byteMove
  cases h : realtimeOf b <;> simp [hb, applyMove, emit, answer, consume, dropByte]

theorem dataField_dataValue {b : Byte} (h : isData b = true) : dataField (dataValue b) = b := by
  revert b; decide

theorem isRealtime_of_isData {b : Byte} (h : isData b = true) : isRealtime b = false := by
  revert b; decide

theorem isRealtime_of_kindOf {b : Byte} {k : CvKind} (h : kindOf b = some k) : isRealtime b = false := by
  revert b; cases k <;> decide

theorem isData_of_kindOf {b : Byte} {k : CvKind} (h : kindOf b = some k) : isData b = false := by
  revert b; cases k <;> decide

theorem isData_of_isRealtime {b : Byte} (h : isRealtime b = true) : isData b = false := by
  revert b; decide

/-- A byte that is neither data nor channel voice is one of the sixteen system bytes. -/
theorem system_of_unknown {b : Byte} (hd : isData b = false) (hk : kindOf b = none) : b = 0xF#4 ++ lowNibble b := by
  revert b; decide

theorem exec_data {b : Byte} (h : isData b = true) (s : State) :
    exec (decodeByte b) s = .next (applyMove (byteMove s.cfgGroup s.slot b) s) := by
  simp only [decodeByte, h, if_true, exec, execData, dataField_dataValue h]
  refine feedOrOpen_eq rfl (isRealtime_of_isData h) fun hs => ?_
  simp [openContinuation, openMove, h, applyMove, setSlot, consume]

theorem exec_channelVoiceByte {b : Byte} {k : CvKind} (h : kindOf b = some k) (s : State) :
    channelVoiceByte k (lowNibble b) s = .next (applyMove (byteMove s.cfgGroup s.slot b) s) := by
  unfold channelVoiceByte
  rw [status_channelField, status_of_kindOf h]
  refine feedOrOpen_eq rfl (isRealtime_of_kindOf h) fun hs => ?_
  simp [openChannelVoice, openMove, h, isData_of_kindOf h, applyMove, setSlot, consume]

theorem exec_system (n : Nibble) (s : State) :
    exec (decodeSystem n) s = .next (applyMove (byteMove s.cfgGroup s.slot (0xF#4 ++ n)) s) := by
  have cases16 : n = 0#4 ∨ n = 1#4 ∨ n = 2#4 ∨ n = 3#4 ∨ n = 4#4 ∨ n = 5#4 ∨ n = 6#4 ∨ n = 7#4 ∨ n = 8#4 ∨ n = 9#4 ∨
      n = 10#4 ∨ n = 11#4 ∨ n = 12#4 ∨ n = 13#4 ∨ n = 14#4 ∨ n = 15#4 := by
    revert n; decide
  rcases cases16 with rfl | rfl | rfl | rfl | rfl | rfl | rfl | rfl | rfl | rfl | rfl | rfl | rfl | rfl | rfl | rfl
  case' inl => refine feedOrOpen_eq (b := 0xF0#8) rfl (by decide) fun hs => ?_
  case' inr.inl => refine feedOrOpen_eq (b := 0xF1#8) rfl (by decide) fun hs => ?_
  case' inr.inr.inl => refine feedOrOpen_eq (b := 0xF2#8) rfl (by decide) fun hs => ?_
  case' inr.inr.inr.inl => refine feedOrOpen_eq (b := 0xF3#8) rfl (by decide) fun hs => ?_
  case' inr.inr.inr.inr.inl => refine feedOrOpen_eq (b := 0xF4#8) rfl (by decide) fun hs => ?_
  case' inr.inr.inr.inr.inr.inl => refine feedOrOpen_eq (b := 0xF5#8) rfl (by decide) fun hs => ?_
  case' inr.inr.inr.inr.inr.inr.inl => refine feedOrOpen_eq (b := 0xF6#8) rfl (by decide) fun hs => ?_
  case' inr.inr.inr.inr.inr.inr.inr.inl => refine feedOrOpen_eq (b := 0xF7#8) rfl (by decide) fun hs => ?_
  case inr.inr.inr.inr.inr.inr.inr.inr.inl => exact realtimeByte_eq (b := 0xF8#8) (by decide) s
  case inr.inr.inr.inr.inr.inr.inr.inr.inr.inl => exact realtimeByte_eq (b := 0xF9#8) (by decide) s
  case inr.inr.inr.inr.inr.inr.inr.inr.inr.inr.inl => exact realtimeByte_eq (b := 0xFA#8) (by decide) s
  case inr.inr.inr.inr.inr.inr.inr.inr.inr.inr.inr.inl => exact realtimeByte_eq (b := 0xFB#8) (by decide) s
  case inr.inr.inr.inr.inr.inr.inr.inr.inr.inr.inr.inr.inl => exact realtimeByte_eq (b := 0xFC#8) (by decide) s
  case inr.inr.inr.inr.inr.inr.inr.inr.inr.inr.inr.inr.inr.inl => exact realtimeByte_eq (b := 0xFD#8) (by decide) s
  case inr.inr.inr.inr.inr.inr.inr.inr.inr.inr.inr.inr.inr.inr.inl => exact realtimeByte_eq (b := 0xFE#8) (by decide) s
  case inr.inr.inr.inr.inr.inr.inr.inr.inr.inr.inr.inr.inr.inr.inr => exact realtimeByte_eq (b := 0xFF#8) (by decide) s
  all_goals
    simp [openBuilder, emitTuneRequest, dropByte, openMove, openSystemMove, applyMove, setSlot, consume, emit, answer, hs, isData, kindOf,
      highNibble, lowNibble]

/-- The whole of one iteration on a byte: the instruction the byte decodes to makes the byte's move (R140, R169). -/
theorem exec_decodeByte (b : Byte) (s : State) :
    exec (decodeByte b) s = .next (applyMove (byteMove s.cfgGroup s.slot b) s) := by
  by_cases hd : isData b = true
  · exact exec_data hd s
  · simp only [Bool.not_eq_true] at hd
    cases hk : kindOf b with
    | none =>
      have := exec_system (lowNibble b) s
      rw [← system_of_unknown hd hk] at this
      simpa [decodeByte, hd, hk] using this
    | some k =>
      have := exec_channelVoiceByte hk s
      cases k <;> simp only [decodeByte, hd, hk] <;> exact this

/-- END (R214, R215). -/
theorem atEnd_eq (s : State) : atEnd s = applyMove (endMove s.cfgGroup s.slot) s := by
  unfold atEnd
  cases h : s.slot with
  | none => simp [endMove, applyMove, answer, h]
  | some B => cases B <;> simp [feed, feedEnd, endMove, applyMove, answer, emit, setSlot]

/-- The move of an iteration, by what `Peek()` answers (R211). -/
def move (g : Byte) (slot : Option Builder) : Peek → Move
  | .byte b => byteMove g slot b
  | .empty => ⟨false, slot, some .pending⟩
  | .ended => endMove g slot

/-- The whole of one iteration (R211): every iteration answers a next state, and changes the cursor, the slot, the answer and
the pull in progress as its move says, and nothing else. -/
theorem iterate_eq (s : State) : iterate s = .next (applyMove (move s.cfgGroup s.slot (peek s)) s) := by
  unfold iterate move
  cases peek s with
  | byte b => exact exec_decodeByte b s
  | empty => simp [atEmpty, answer, applyMove]
  | ended => simp [atEnd_eq]

section frame
variable (m : Move) (s : State)

@[simp] theorem applyMove_slot : (applyMove m s).slot = m.slot := rfl
@[simp] theorem applyMove_pos : (applyMove m s).pos = if m.consumes then s.pos + 1 else s.pos := rfl
@[simp] theorem applyMove_src : (applyMove m s).src = s.src := rfl
@[simp] theorem applyMove_ended : (applyMove m s).ended = s.ended := rfl
@[simp] theorem applyMove_cfgGroup : (applyMove m s).cfgGroup = s.cfgGroup := rfl
@[simp] theorem applyMove_pulling : (applyMove m s).pulling = (m.reply.isNone && s.pulling) := rfl
@[simp] theorem applyMove_out : (applyMove m s).out = s.out ++ m.reply.toList := rfl
@[simp] theorem applyMove_encOut : (applyMove m s).encOut = s.encOut := rfl
@[simp] theorem applyMove_agenda : (applyMove m s).agenda = s.agenda := rfl

end frame

@[simp] theorem byteMove_realtime {g b : Byte} {slot : Option Builder} (h : isRealtime b = true) :
    byteMove g slot b = ⟨true, slot, (realtimeOf b).map fun k => .event (.realtime g k)⟩ := by simp [byteMove, h]

@[simp] theorem byteMove_some {g b : Byte} {B : Builder} (h : isRealtime b = false) :
    byteMove g (some B) b = feedMove (feedByte g B b) := by simp [byteMove, h]

@[simp] theorem byteMove_none {g b : Byte} (h : isRealtime b = false) : byteMove g none b = openMove g b := by
  simp [byteMove, h]

@[simp] theorem feedByte_data {g b : Byte} {B : Builder} (h : isData b = true) :
    feedByte g B b =
      match B with
      | .cv s p => takeChannelVoice g s p b
      | .sx x data => .keep (.sx x (data ++ [b]))
      | .sp lsb => takeSongPosition g lsb b
      | .sc w => takeSingleField g w b := by cases B <;> simp [feedByte, h]

@[simp] theorem feedByte_status {g b : Byte} {B : Builder} (h : isData b = false) :
    feedByte g B b =
      match B with
      | .cv _ _ => .failed
      | .sx x data =>
        if b = 0xF7#8 then .completed (.sysex g (closedKind x) data) none
        else .interrupted (.sysex g (openKind x) data)
      | .sp _ => .failed
      | .sc _ => .failed := by cases B <;> simp [feedByte, h]

/-- A data byte fed to a builder is always taken (R200). -/
theorem feedMove_data_consumes {g b : Byte} (B : Builder) (h : isData b = true) :
    (feedMove (feedByte g B b)).consumes = true := by
  rw [feedByte_data h]
  cases B with
  | cv s p => rcases p with _ | ⟨_ | d⟩ <;> rfl
  | sx x d => rfl
  | sp l => cases l <;> rfl
  | sc w => cases w <;> rfl

/-- With no builder every byte below 0xF8 is consumed, and opens a builder, or yields `TuneRequest`, or is dropped. -/
theorem openMove_consumes (g b : Byte) : (openMove g b).consumes = true := by
  unfold openMove
  split
  · rfl
  · split
    · rfl
    · unfold openSystemMove; split <;> rfl

/-- A byte that is not consumed leaves no builder behind (R216). -/
theorem slot_of_not_consumes {g : Byte} {slot : Option Builder} {b : Byte} (h : (byteMove g slot b).consumes = false) :
    isRealtime b = false ∧ isData b = false ∧ slot ≠ none ∧ (byteMove g slot b).slot = none := by
  by_cases hr : isRealtime b = true
  · simp [hr] at h
  simp only [Bool.not_eq_true] at hr
  cases slot with
  | none => simp [hr, openMove_consumes] at h
  | some B =>
    by_cases hd : isData b = true
    · rw [byteMove_some hr, feedMove_data_consumes B hd] at h
      cases h
    simp only [Bool.not_eq_true] at hd
    refine ⟨hr, hd, by simp, ?_⟩
    rw [byteMove_some hr, feedByte_status hd] at *
    cases B with
    | sx x d => dsimp only; split <;> rfl
    | _ => rfl

/-- With no builder every byte is consumed (R216). -/
theorem consumes_of_none (g b : Byte) : (byteMove g none b).consumes = true := by
  by_contra h
  simp only [Bool.not_eq_true] at h
  exact (slot_of_not_consumes h).2.2.1 rfl

/-- An iteration on a byte answers with an event or not at all. -/
theorem reply_of_byteMove (g : Byte) (slot : Option Builder) (b : Byte) :
    (byteMove g slot b).reply = none ∨ ∃ e, (byteMove g slot b).reply = some (.event e) := by
  by_cases hr : isRealtime b = true
  · rw [byteMove_realtime hr]; cases realtimeOf b <;> simp
  simp only [Bool.not_eq_true] at hr
  cases slot with
  | some B => rw [byteMove_some hr]; cases feedByte g B b <;> simp [feedMove]
  | none =>
    rw [byteMove_none hr]
    unfold openMove
    split
    · simp
    · split
      · simp
      · unfold openSystemMove; split <;> simp

end Sys2Proof.Machine
end

