-- ==== Sys2Proof/Laws/Memory.lean ====
section
/-! SUPPORT. The byte source: every operation keeps the canonical form, and the read-after-write laws. -/

namespace Sys2Proof.Machine.Memory

/-- The canonical form as a statement about all pairs of cells. -/
theorem wf_cons {c : Host.Cell} {m : Memory} :
    wf (c :: m) = true ↔ (∀ d ∈ m, c.1 < d.1) ∧ wf m = true := by
  induction m generalizing c with
  | nil => simp [wf]
  | cons d m ih =>
    simp only [wf, Bool.and_eq_true, decide_eq_true_eq, List.mem_cons, forall_eq_or_imp]
    constructor
    · rintro ⟨h, hm⟩
      exact ⟨⟨h, fun x hx => h.trans ((ih.1 hm).1 x hx)⟩, hm⟩
    · rintro ⟨⟨h, -⟩, hm⟩
      exact ⟨h, hm⟩

theorem mem_write {m : Memory} {a : Nat} {b : Byte} {d : Host.Cell} (h : d ∈ write m a b) :
    d = (a, b) ∨ d ∈ m := by
  induction m with
  | nil => simpa [write] using h
  | cons c m ih =>
    simp only [write] at h
    split at h
    · simpa using h
    · split at h
      · simp only [List.mem_cons] at h ⊢; tauto
      · simp only [List.mem_cons] at h ⊢
        rcases h with h | h
        · exact .inr (.inl h)
        · rcases ih h with h | h
          · exact .inl h
          · exact .inr (.inr h)

/-- A write keeps the canonical form. -/
theorem wf_write {m : Memory} (h : wf m = true) (a : Nat) (b : Byte) : wf (write m a b) = true := by
  induction m with
  | nil => rfl
  | cons c m ih =>
    have hc := wf_cons.1 h
    simp only [write]
    split
    · rename_i hlt
      refine wf_cons.2 ⟨fun d hd => ?_, h⟩
      rcases List.mem_cons.1 hd with rfl | hd
      · exact hlt
      · exact hlt.trans (hc.1 d hd)
    · split
      · rename_i heq
        exact wf_cons.2 ⟨fun d hd => by simpa [heq] using hc.1 d hd, hc.2⟩
      · refine wf_cons.2 ⟨fun d hd => ?_, ih hc.2⟩
        rcases mem_write hd with rfl | hd
        · exact show c.1 < a by omega
        · exact hc.1 d hd

/-- The transport's append keeps the canonical form. -/
theorem wf_append {m : Memory} (h : wf m = true) (b : Byte) : wf (append m b) = true := wf_write h _ _

theorem wf_cellsFrom (a : Nat) (bs : List Byte) : wf (cellsFrom a bs) = true := by
  induction bs generalizing a with
  | nil => rfl
  | cons b bs ih =>
    refine wf_cons.2 ⟨fun d hd => ?_, ih _⟩
    have : ∀ (bs : List Byte) (a : Nat), ∀ d ∈ cellsFrom a bs, a ≤ d.1 := by
      intro bs
      induction bs with
      | nil => simp [cellsFrom]
      | cons b bs ih =>
        intro a d hd
        rcases List.mem_cons.1 hd with rfl | hd
        · exact le_rfl
        · exact (Nat.le_succ a).trans (ih (a + 1) d hd)
    exact this bs (a + 1) d hd

/-- A byte sequence is a source in canonical form. -/
theorem wf_ofBytes (bs : List Byte) : wf (ofBytes bs) = true := wf_cellsFrom 0 bs

/-- A read after a write to the same index gives the byte written. -/
@[simp] theorem read_write_same (m : Memory) (a : Nat) (b : Byte) : read (write m a b) a = some b := by
  induction m with
  | nil => simp [write, read]
  | cons c m ih =>
    simp only [write]
    split
    · simp [read]
    · split
      · simp [read]
      · simp [read, ih, show c.1 ≠ a by omega]

/-- A write leaves every other index alone. -/
theorem read_write_other {m : Memory} {a c : Nat} (h : c ≠ a) (b : Byte) : read (write m a b) c = read m c := by
  induction m with
  | nil => simp [write, read, Ne.symm h]
  | cons d m ih =>
    simp only [write]
    split
    · simp [read, Ne.symm h]
    · split
      · rename_i _ hd
        simp [read, Ne.symm h, show d.1 ≠ c by omega]
      · simp [read, ih]

@[simp] theorem bytes_cellsFrom (a : Nat) (bs : List Byte) : bytes (cellsFrom a bs) = bs := by
  induction bs generalizing a with
  | nil => rfl
  | cons b bs ih => simpa [cellsFrom, bytes] using ih (a + 1)

@[simp] theorem bytes_ofBytes (bs : List Byte) : bytes (ofBytes bs) = bs := bytes_cellsFrom 0 bs

theorem read_cellsFrom (a i : Nat) (bs : List Byte) :
    read (cellsFrom a bs) i = if i < a then none else bs[i - a]? := by
  induction bs generalizing a with
  | nil => simp [cellsFrom, read]
  | cons b bs ih =>
    simp only [cellsFrom, read, ih]
    split
    · rename_i h; subst h; simp
    · split
      · rename_i h1 h2; rw [if_pos (by omega)]
      · rename_i h1 h2
        rw [if_neg (by omega), show i - a = (i - (a + 1)) + 1 by omega]
        simp

/-- The byte at an index of a sequence source. -/
@[simp] theorem read_ofBytes (bs : List Byte) (i : Nat) : read (ofBytes bs) i = bs[i]? := by
  simp [ofBytes, read_cellsFrom]

theorem next_cellsFrom (a : Nat) (b : Byte) (bs : List Byte) : next (cellsFrom a (b :: bs)) = a + bs.length + 1 := by
  induction bs generalizing a b with
  | nil => rfl
  | cons c bs ih =>
    have := ih (a + 1) c
    simp only [cellsFrom, next, List.length_cons] at this ⊢
    omega

/-- The transport appends at the index after the last byte. -/
@[simp] theorem next_ofBytes (bs : List Byte) : next (ofBytes bs) = bs.length := by
  cases bs with
  | nil => rfl
  | cons b bs => simp [ofBytes, next_cellsFrom]

theorem write_cellsFrom_end (a : Nat) (bs : List Byte) (b : Byte) :
    write (cellsFrom a bs) (a + bs.length) b = cellsFrom a (bs ++ [b]) := by
  induction bs generalizing a with
  | nil => rfl
  | cons c bs ih =>
    have := ih (a + 1)
    simp only [cellsFrom, List.cons_append, write, List.length_cons]
    rw [if_neg (by omega), if_neg (by omega), ← this]
    congr 2
    omega

/-- Appending to a sequence source is appending to the sequence (R46). -/
@[simp] theorem append_ofBytes (bs : List Byte) (b : Byte) : append (ofBytes bs) b = ofBytes (bs ++ [b]) := by
  have := write_cellsFrom_end 0 bs b
  simp only [Nat.zero_add] at this
  rw [append, next_ofBytes, ofBytes, this, ofBytes]

/-- In a canonical source every index at or past `next` holds no byte. -/
theorem lt_next_of_mem {m : Memory} (h : wf m = true) : ∀ d ∈ m, d.1 < next m := by
  induction m with
  | nil => simp
  | cons c m ih =>
    have hc := wf_cons.1 h
    cases m with
    | nil => simp [next]
    | cons e m =>
      intro d hd
      have hn : next (c :: e :: m) = next (e :: m) := rfl
      rw [hn]
      rcases List.mem_cons.1 hd with rfl | hd
      · exact (hc.1 e (by simp)).trans (ih hc.2 e (by simp))
      · exact ih hc.2 d hd

theorem read_some_mem {m : Memory} {a : Nat} {b : Byte} (h : read m a = some b) : (a, b) ∈ m := by
  induction m with
  | nil => simp [read] at h
  | cons c m ih =>
    simp only [read] at h
    split at h
    · rename_i hc
      cases h
      exact List.mem_cons.2 (.inl (by rw [← hc]))
    · exact List.mem_cons.2 (.inr (ih h))

/-- A byte that has been presented reads the same after an append (R46). -/
theorem read_append_of_some {m : Memory} (hm : wf m = true) {a : Nat} {x : Byte} (h : read m a = some x) (b : Byte) :
    read (append m b) a = some x := by
  have := lt_next_of_mem hm _ (read_some_mem h)
  rw [append, read_write_other (by simp at this; omega), h]

end Sys2Proof.Machine.Memory
end

