-- ==== Sys2Proof/Laws/Stream.lean ====
section
/-! SUPPORT. The events of a byte sequence as a function on lists (`streamFrom`), and the run of the machine that produces them:
`decodeStream` is `streamFrom` from an empty slot. Claims about whole streams are then inductions over lists. -/

namespace Sys2Proof.Machine

/-- What one byte does to the slot and which events it yields, its second look included (R216). -/
def takeByte (g : Byte) (slot : Option Builder) (b : Byte) : Option Builder × List Event :=
  let m := byteMove g slot b
  let e := eventsOf m.reply.toList
  if m.consumes then (m.slot, e) else ((byteMove g none b).slot, e ++ eventsOf (byteMove g none b).reply.toList)

/-- What END flushes (R214, R215). -/
def flush (g : Byte) : Option Builder → List Event
  | some (.sx x d) => [.sysex g (openKind x) d]
  | _ => []

/-- The events a decoder with this slot yields on the bytes and then END. -/
def streamFrom (g : Byte) : Option Builder → List Byte → List Event
  | slot, [] => flush g slot
  | slot, b :: bs => (takeByte g slot b).2 ++ streamFrom g (takeByte g slot b).1 bs

@[simp] theorem eventsOf_append (a b : List PullResult) : eventsOf (a ++ b) = eventsOf a ++ eventsOf b :=
  List.filterMap_append

@[simp] theorem eventsOf_nil : eventsOf [] = [] := rfl

/-- One iteration on a byte, against the function on lists: what is still to come shrinks by what was emitted. -/
theorem streamFrom_move (g : Byte) (slot : Option Builder) (b : Byte) (bs : List Byte) :
    streamFrom g slot (b :: bs) =
      eventsOf (byteMove g slot b).reply.toList ++
        streamFrom g (byteMove g slot b).slot (if (byteMove g slot b).consumes then bs else b :: bs) := by
  simp only [streamFrom, takeByte]
  cases h : (byteMove g slot b).consumes with
  | true => simp
  | false => simp [(slot_of_not_consumes h).2.2.2, streamFrom, takeByte, consumes_of_none, List.append_assoc]

/-- END flushes what is left. -/
theorem flush_endMove (g : Byte) (slot : Option Builder) : eventsOf (endMove g slot).reply.toList = flush g slot := by
  cases slot with
  | none => rfl
  | some B => cases B <;> rfl

@[simp] theorem endMove_slot (g : Byte) (slot : Option Builder) : (endMove g slot).slot = none := by
  unfold endMove; split <;> rfl

@[simp] theorem endMove_consumes (g : Byte) (slot : Option Builder) : (endMove g slot).consumes = false := by
  unfold endMove; split <;> rfl

/-! ## The run of `decodeStream` -/

theorem run_succ {k : Nat} {s t : State} (h : step s = .next t) :
    Host.Core.run core (k + 1) s = Host.Core.run core k t := by
  have h' : core.step s = .next t := h
  simp only [Host.Core.run]
  rw [h']

/-- Looks still to come: two for each byte not consumed, one more for a pending builder (R216). -/
def looksLeft (n : Nat) (slot : Option Builder) : Nat := 2 * n + if slot.isSome then 1 else 0

theorem looksLeft_le (n : Nat) (slot : Option Builder) : looksLeft n slot ≤ 2 * n + 1 := by
  unfold looksLeft; split <;> omega

theorem le_looksLeft (n : Nat) (slot : Option Builder) : 2 * n ≤ looksLeft n slot := by
  unfold looksLeft; omega

/-- A state of a run on `bytes` with `p` pulls still to accept. -/
structure OnStream (g : Byte) (bytes : List Byte) (p : Nat) (s : State) : Prop where
  src : s.src = Memory.ofBytes bytes
  ended : s.ended = true
  group : s.cfgGroup = g
  agenda : s.agenda = List.replicate p .pull
  cursor : s.pos ≤ bytes.length

theorem OnStream.peek {g bytes p s} (h : OnStream g bytes p s) :
    peek s = if hp : s.pos < bytes.length then .byte bytes[s.pos] else .ended := by
  unfold Machine.peek
  rw [h.src, Memory.read_ofBytes]
  split
  · rename_i hb
    obtain ⟨hlt, hb⟩ := List.getElem?_eq_some_iff.1 hb
    simp [hlt, hb]
  · rename_i hb
    simp [h.ended, Nat.not_lt.2 (List.getElem?_eq_none_iff.1 hb)]

/-- One iteration of a run on a stream. -/
theorem OnStream.iterate {g bytes p s} (h : OnStream g bytes p s) :
    ∃ t, iterate s = .next t ∧ OnStream g bytes p t ∧
      eventsOf t.out ++ streamFrom g t.slot (bytes.drop t.pos) =
        eventsOf s.out ++ streamFrom g s.slot (bytes.drop s.pos) ∧
      ((t.pulling = s.pulling ∧ looksLeft (bytes.length - t.pos) t.slot < looksLeft (bytes.length - s.pos) s.slot) ∨
        (t.pulling = false ∧ looksLeft (bytes.length - t.pos) t.slot < looksLeft (bytes.length - s.pos) s.slot) ∨
        (t.pulling = false ∧ t.out.getLast? = some .exhausted ∧ t.slot = none ∧ t.pos = bytes.length)) := by
  refine ⟨_, iterate_eq s, ⟨h.src, h.ended, h.group, h.agenda, ?_⟩, ?_, ?_⟩
  all_goals rw [h.peek, h.group]
  all_goals by_cases hp : s.pos < bytes.length
  all_goals simp only [hp, dif_pos, dif_neg, move, not_false_eq_true]
  · simp only [applyMove_pos]; split <;> omega
  · simp [h.cursor]
  · rw [List.drop_eq_getElem_cons hp, streamFrom_move]
    simp only [applyMove_out, eventsOf_append, applyMove_slot, applyMove_pos, List.append_assoc]
    split
    · rfl
    · rw [List.drop_eq_getElem_cons hp]
  · have hd : bytes.drop s.pos = [] := List.drop_eq_nil_iff.2 (by omega)
    simp [hd, streamFrom, flush_endMove, flush]
  · generalize hm : byteMove g s.slot bytes[s.pos] = m
    have hlt : looksLeft (bytes.length - (applyMove m s).pos) (applyMove m s).slot <
        looksLeft (bytes.length - s.pos) s.slot := by
      cases hc : m.consumes with
      | true =>
        simp only [applyMove_pos, hc, if_true, applyMove_slot]
        have h1 := looksLeft_le (bytes.length - (s.pos + 1)) m.slot
        have h2 := le_looksLeft (bytes.length - s.pos) s.slot
        omega
      | false =>
        have := slot_of_not_consumes (hm ▸ hc)
        rw [hm] at this
        cases hs : s.slot with
        | none => exact absurd hs this.2.2.1
        | some B => simp [hc, looksLeft, this.2.2.2]
    cases hr : m.reply with
    | none => exact .inl ⟨by simp [hr], hlt⟩
    | some r => exact .inr (.inl ⟨by simp [hr], hlt⟩)
  · have hpos : s.pos = bytes.length := by have := h.cursor; omega
    cases hs : s.slot with
    | none => exact .inr (.inr (by simp [endMove, hpos]))
    | some B =>
      cases B with
      | sx x d => exact .inr (.inl (by simp [endMove, looksLeft]))
      | cv _ _ => exact .inr (.inr (by simp [endMove, hpos]))
      | sp _ => exact .inr (.inr (by simp [endMove, hpos]))
      | sc _ => exact .inr (.inr (by simp [endMove, hpos]))

/-- What is true all along a run on a stream: enough pulls are left, or EXHAUSTED has been answered. -/
def Enough (bytes : List Byte) (p : Nat) (s : State) : Prop :=
  looksLeft (bytes.length - s.pos) s.slot < p + s.pulling.toNat ∨
    (s.slot = none ∧ s.pos = bytes.length ∧ s.out.getLast? = some .exhausted)

theorem run_onStream {g bytes} : ∀ (k p : Nat) (s : State), OnStream g bytes p s → Enough bytes p s →
    2 * p + s.pulling.toNat + looksLeft (bytes.length - s.pos) s.slot ≤ k →
    ∃ t, Host.Core.run core k s = .next t ∧ OnStream g bytes 0 t ∧ t.pulling = false ∧ t.slot = none ∧
      t.pos = bytes.length ∧ t.out.getLast? = some .exhausted ∧
      eventsOf t.out = eventsOf s.out ++ streamFrom g s.slot (bytes.drop s.pos) := by
  intro k
  induction k with
  | zero =>
    intro p s h he hk
    have hp : p = 0 := by omega
    have hpull : s.pulling = false := by cases hs : s.pulling <;> simp_all
    rcases he with he | ⟨h1, h2, h3⟩
    · omega
    · subst hp
      exact ⟨s, rfl, h, hpull, h1, h2, h3, by simp [h1, h2, streamFrom, flush]⟩
  | succ k ih =>
    intro p s h he hk
    have key : ∀ t, iterate s = .next t → OnStream g bytes p t → step s = .next t →
        eventsOf t.out ++ streamFrom g t.slot (bytes.drop t.pos) =
          eventsOf s.out ++ streamFrom g s.slot (bytes.drop s.pos) → Enough bytes p t →
        2 * p + t.pulling.toNat + looksLeft (bytes.length - t.pos) t.slot ≤ k →
        ∃ t, Host.Core.run core (k + 1) s = .next t ∧ OnStream g bytes 0 t ∧ t.pulling = false ∧ t.slot = none ∧
          t.pos = bytes.length ∧ t.out.getLast? = some .exhausted ∧
          eventsOf t.out = eventsOf s.out ++ streamFrom g s.slot (bytes.drop s.pos) := by
      intro t _ ht hst hev het hkt
      obtain ⟨u, hu, h1, h2, h3, h4, h5, h6⟩ := ih p t ht het hkt
      refine ⟨u, ?_, h1, h2, h3, h4, h5, by rw [h6, hev]⟩
      rw [run_succ hst]
      exact hu
    cases hpl : s.pulling with
    | true =>
      obtain ⟨t, ht, hot, hev, hcase⟩ := h.iterate
      have hst : step s = .next t := by
        unfold step
        rw [h.agenda]
        cases p <;> simp [List.replicate, decoderTurn, hpl, ht]
      refine key t ht hot hst hev ?_ ?_
      · rcases hcase with ⟨h1, h2⟩ | ⟨h1, h2⟩ | ⟨h1, h2, h3, h4⟩
        · rcases he with he | ⟨e1, e2, e3⟩
          · left; rw [h1]; omega
          · simp [e1, e2, looksLeft] at h2
        · rcases he with he | ⟨e1, e2, e3⟩
          · left; rw [h1]; simp [hpl] at he ⊢; omega
          · simp [e1, e2, looksLeft] at h2
        · exact .inr ⟨h3, h4, h2⟩
      · rcases hcase with ⟨h1, h2⟩ | ⟨h1, h2⟩ | ⟨h1, h2, h3, h4⟩
        · rw [h1]; omega
        · rw [h1]; simp [hpl] at hk ⊢; omega
        · rw [h1, h3, h4]; simp [hpl, looksLeft] at hk ⊢; omega
    | false =>
      cases p with
      | zero =>
        rcases he with he | ⟨h1, h2, h3⟩
        · simp [hpl] at he
        · obtain ⟨u, hu, r⟩ := ih 0 s h (.inr ⟨h1, h2, h3⟩) (by simp [hpl, h1, h2, looksLeft])
          refine ⟨u, ?_, r⟩
          have : step s = .next s := by unfold step; rw [h.agenda]; simp [decoderTurn, hpl]
          rw [run_succ this]
          exact hu
      | succ p =>
        have hst : step s = .next (beginPull (popTurn (List.replicate p .pull) s)) := by
          unfold step
          rw [h.agenda]
          simp [List.replicate_succ, hpl]
        obtain ⟨u, hu, r⟩ := ih p (beginPull (popTurn (List.replicate p .pull) s))
          ⟨h.src, h.ended, h.group, rfl, h.cursor⟩
          (by
            rcases he with he | he
            · left; simp [hpl] at he ⊢; omega
            · exact .inr he)
          (by simp [hpl] at hk ⊢; omega)
        refine ⟨u, ?_, r⟩
        rw [run_succ hst]
        exact hu

theorem onStream_start (g : Byte) (bytes : List Byte) :
    OnStream g bytes (2 * bytes.length + 2) (onStream g bytes) := by
  constructor <;> first | rfl | simp [onStream, State.reset]

/-- The run behind `decodeStream` ends with every pull answered, the last EXHAUSTED, every byte consumed and no builder. -/
theorem run_decodeStream (g : Byte) (bytes : List Byte) :
    ∃ t, Host.Core.run core (stepsOnStream bytes) (onStream g bytes) = .next t ∧ OnStream g bytes 0 t ∧
      t.pulling = false ∧ t.slot = none ∧ t.pos = bytes.length ∧ t.out.getLast? = some .exhausted ∧
      eventsOf t.out = streamFrom g none bytes := by
  have := run_onStream (stepsOnStream bytes) _ _ (onStream_start g bytes)
    (.inl (by simp [looksLeft, onStream, State.reset]))
    (by simp [looksLeft, onStream, State.reset, stepsOnStream])
  simpa [onStream, State.reset] using this

/-- `decode(bytes)` as a function on lists. -/
theorem decodeStream_eq (g : Byte) (bytes : List Byte) : decodeStream g bytes = streamFrom g none bytes := by
  obtain ⟨t, ht, -, -, -, -, -, he⟩ := run_decodeStream g bytes
  simp [decodeStream, ht, he]

end Sys2Proof.Machine
end

