-- ==== Sys2Proof/Laws/Events.lean ====
section
/-! SUPPORT. What an iteration does to a good builder and which events it yields (R35, R101), and the function on lists byte by
byte. -/

namespace Sys2Proof.Machine

/-- A good builder fed a byte below 0xF8 leaves a good builder and yields good events (R35, R101). -/
theorem feedMove_ok (g : Byte) (B : Builder) (b : Byte) (hB : B.ok = true) :
    (∀ B', (feedMove (feedByte g B b)).slot = some B' → B'.ok = true) ∧
      (∀ e, (feedMove (feedByte g B b)).reply = some (.event e) → e.emittedBy g = true) := by
  by_cases hd : isData b = true
  · have h80 : isData 0x40#8 = true := rfl
    rw [feedByte_data hd]
    rcases B with ⟨s, p⟩ | ⟨x, d⟩ | l | w
    · have hk : ∃ k, kindOf s = some k ∧ k.need = p.need := by
        simp only [Builder.ok, Bool.and_eq_true] at hB
        cases hk : kindOf s with
        | none => simp [hk] at hB
        | some k => exact ⟨k, rfl, by simpa [hk] using hB.2⟩
      obtain ⟨k, hk, hn⟩ := hk
      have hs : 0x80#8 ≤ s ∧ s ≤ 0xEF#8 := by simp only [Builder.ok, Bool.and_eq_true, decide_eq_true_eq] at hB; exact hB.1
      have hdf : ∀ v : Septet, isData (dataField v) = true := by decide
      rcases p with _ | ⟨_ | d1⟩
      · simp only [takeChannelVoice, feedMove, Option.some.injEq, PullResult.event.injEq]
        simp only [Progress.need] at hn
        refine ⟨?_, ?_⟩
        · rintro _ rfl; exact hB
        · rintro _ rfl
          have : k ≠ .noteOn := by rintro rfl; cases hn
          simp [Event.emittedBy, Event.valid, Event.emittable, Event.group, hk, hd, hn]
      · simp only [takeChannelVoice, feedMove, Option.some.injEq]
        refine ⟨?_, ?_⟩
        · rintro _ rfl; simpa [Builder.ok, Progress.need] using hB
        · rintro _ h; cases h
      · simp only [takeChannelVoice, feedMove, Option.some.injEq, PullResult.event.injEq]
        simp only [Progress.need] at hn
        refine ⟨?_, ?_⟩
        · rintro _ rfl; simpa [Builder.ok, Progress.need] using hB
        · rintro _ rfl
          unfold secondByteEvent
          split
          · rename_i h9
            have h8 : kindOf (128#8 ||| s &&& 15#8) = some .noteOff := by clear * -; revert s; decide
            simp [Event.emittedBy, Event.valid, Event.emittable, Event.group, h8, h80, hdf, CvKind.need]
          · rename_i h9
            have h10 : kindOf s = some .noteOn → highNibble s = 9#4 := by clear * -; revert s; decide
            simp [Event.emittedBy, Event.valid, Event.emittable, Event.group, hk, hn, hdf, hd]
            by_cases hkn : k = .noteOn
            · right; subst hkn; simpa [h10 hk] using h9
            · exact .inl hkn
    · simp only [feedMove, Option.some.injEq]
      refine ⟨?_, ?_⟩
      · rintro _ rfl; simp [Builder.ok, hd] at hB ⊢; exact hB.1
      · rintro _ h; cases h
    · cases l <;> simp [takeSongPosition, feedMove, Builder.ok, Event.emittedBy, Event.valid, Event.emittable, Event.group, hd]
      rename_i v; clear * -; revert v; decide
    · cases w <;> simp [takeSingleField, feedMove, Event.emittedBy, Event.valid, Event.emittable, Event.group, hd]
  · simp only [Bool.not_eq_true] at hd
    rw [feedByte_status hd]
    rcases B with ⟨s, p⟩ | ⟨x, d⟩ | l | w
    · simp [feedMove]
    · simp only [Builder.ok, Bool.and_eq_true] at hB
      by_cases h7 : b = 247#8 <;> cases x <;>
        simp_all [feedMove, closedKind, openKind, Event.emittedBy, Event.valid, Event.emittable, Event.group]
    · simp [feedMove]
    · simp [feedMove]

/-- One iteration on a byte keeps the builder good and yields good events (R35, R101). -/
theorem byteMove_ok (g : Byte) (slot : Option Builder) (b : Byte) (hB : ∀ B, slot = some B → B.ok = true) :
    (∀ B', (byteMove g slot b).slot = some B' → B'.ok = true) ∧
      (∀ e, (byteMove g slot b).reply = some (.event e) → e.emittedBy g = true) := by
  by_cases hr : isRealtime b = true
  · rw [byteMove_realtime hr]
    refine ⟨hB, ?_⟩
    cases realtimeOf b <;> simp [Event.emittedBy, Event.valid, Event.emittable, Event.group]
  simp only [Bool.not_eq_true] at hr
  cases slot with
  | some B => rw [byteMove_some hr]; exact feedMove_ok g B b (hB B rfl)
  | none =>
    rw [byteMove_none hr]
    unfold openMove
    split
    · rename_i hd; simp [Builder.ok, hd]
    · rename_i hd
      split
      · rename_i k hk
        have : 0x80#8 ≤ b ∧ b ≤ 0xEF#8 := by revert hk; clear * -; revert b; cases k <;> decide
        have hf : (Progress.fresh k.need).need = k.need := by cases k <;> rfl
        refine ⟨?_, by simp⟩
        rintro _ h; cases h; simp [Builder.ok, hf, hk, this]
      · unfold openSystemMove; split <;> simp [Builder.ok, Event.emittedBy, Event.valid, Event.emittable, Event.group]

/-- What END flushes from a good builder is a good event. -/
theorem endMove_ok (g : Byte) (slot : Option Builder) (hB : ∀ B, slot = some B → B.ok = true) :
    ∀ e, (endMove g slot).reply = some (.event e) → e.emittedBy g = true := by
  rcases slot with _ | (⟨s, p⟩ | ⟨x, d⟩ | l | w) <;> simp [endMove]
  have := hB _ rfl
  simp only [Builder.ok, Bool.and_eq_true] at this
  cases x <;> simp_all [openKind, Event.emittedBy, Event.valid, Event.emittable, Event.group]

/-- The events of an answer. -/
theorem mem_eventsOf_reply (m : Move) (e : Event) : e ∈ eventsOf m.reply.toList ↔ m.reply = some (.event e) := by
  cases h : m.reply with
  | none => simp [eventsOf]
  | some r => cases r <;> simp [eventsOf, eventOf, eq_comm]

/-- One byte keeps the builder good and yields good events, its second look included. -/
theorem takeByte_ok (g : Byte) (slot : Option Builder) (b : Byte) (hB : ∀ B, slot = some B → B.ok = true) :
    (∀ B, (takeByte g slot b).1 = some B → B.ok = true) ∧ ∀ e ∈ (takeByte g slot b).2, e.emittedBy g = true := by
  have h1 := byteMove_ok g slot b hB
  have h2 := byteMove_ok g none b (by simp)
  unfold takeByte
  dsimp only
  split
  · exact ⟨h1.1, fun e he => h1.2 e ((mem_eventsOf_reply _ _).1 he)⟩
  · refine ⟨h2.1, fun e he => ?_⟩
    rcases List.mem_append.1 he with he | he
    · exact h1.2 e ((mem_eventsOf_reply _ _).1 he)
    · exact h2.2 e ((mem_eventsOf_reply _ _).1 he)

/-- A data byte fed to a builder, against the function on lists. -/
theorem takeByte_data (g a : Byte) (B : Builder) (h : isData a = true) :
    takeByte g (some B) a =
      ((feedMove (feedByte g B a)).slot, eventsOf (feedMove (feedByte g B a)).reply.toList) := by
  unfold takeByte
  rw [byteMove_some (isRealtime_of_isData h)]
  simp only [feedMove_data_consumes B h, if_true]

/-- A realtime byte leaves the slot alone (R141). -/
theorem takeByte_realtime (g b : Byte) (slot : Option Builder) (h : isRealtime b = true) :
    takeByte g slot b = (slot, ((realtimeOf b).map (Event.realtime g)).toList) := by
  unfold takeByte; rw [byteMove_realtime h]; simp; cases realtimeOf b <;> rfl

/-- A stream is decoded from the left: what a prefix yields does not depend on what follows. -/
theorem streamFrom_append (g : Byte) (xs : List Byte) :
    ∀ slot, ∃ before slot', ∀ ys, streamFrom g slot (xs ++ ys) = before ++ streamFrom g slot' ys := by
  induction xs with
  | nil => intro slot; exact ⟨[], slot, fun _ => rfl⟩
  | cons b xs ih =>
    intro slot
    obtain ⟨bf, sl, h⟩ := ih (takeByte g slot b).1
    exact ⟨(takeByte g slot b).2 ++ bf, sl, fun ys => by simp [streamFrom, h]⟩

end Sys2Proof.Machine
end

