-- ==== Sys2Proof/Laws/PerInstr.lean ====
section
/-! SUPPORT. Statements about every instruction as syntax, one lemma per constructor. -/

namespace Sys2Proof.Laws.RoundTrip
open Sys2Proof Sys2Proof.Machine

/-- The words of a well-formed instruction decode, in its own unit, to that instruction with nothing left over. -/
def Statement (i : Instr) : Prop := i.wellFormed = true → decode i.codec (encode i) = .instr i []

theorem data (v : Septet) : Statement (.data v) := by
  intro _; revert v; decide

theorem noteOff (ch : Nibble) : Statement (.noteOff ch) := by
  intro _; revert ch; decide

theorem noteOn (ch : Nibble) : Statement (.noteOn ch) := by
  intro _; revert ch; decide

theorem polyPressure (ch : Nibble) : Statement (.polyPressure ch) := by
  intro _; revert ch; decide

theorem controlChange (ch : Nibble) : Statement (.controlChange ch) := by
  intro _; revert ch; decide

theorem programChange (ch : Nibble) : Statement (.programChange ch) := by
  intro _; revert ch; decide

theorem channelPressure (ch : Nibble) : Statement (.channelPressure ch) := by
  intro _; revert ch; decide

theorem pitchBend (ch : Nibble) : Statement (.pitchBend ch) := by
  intro _; revert ch; decide

theorem sysexStart : Statement .sysexStart := by
  intro _; rfl

theorem mtcQuarterFrame : Statement .mtcQuarterFrame := by
  intro _; rfl

theorem songPosition : Statement .songPosition := by
  intro _; rfl

theorem songSelect : Statement .songSelect := by
  intro _; rfl

theorem reservedF4 : Statement .reservedF4 := by
  intro _; rfl

theorem reservedF5 : Statement .reservedF5 := by
  intro _; rfl

theorem tuneRequest : Statement .tuneRequest := by
  intro _; rfl

theorem sysexEnd : Statement .sysexEnd := by
  intro _; rfl

theorem timingClock : Statement .timingClock := by
  intro _; rfl

theorem reservedF9 : Statement .reservedF9 := by
  intro _; rfl

theorem rtStart : Statement .rtStart := by
  intro _; rfl

theorem rtContinue : Statement .rtContinue := by
  intro _; rfl

theorem rtStop : Statement .rtStop := by
  intro _; rfl

theorem reservedFD : Statement .reservedFD := by
  intro _; rfl

theorem activeSensing : Statement .activeSensing := by
  intro _; rfl

theorem rtReset : Statement .rtReset := by
  intro _; rfl

theorem encNoteOff (ch : Nibble) (data1 data2 : Byte) : Statement (.encNoteOff ch data1 data2) := by
  intro _
  simp [Instr.codec, decode, encode, decodeOutput, isData_status .noteOff ch, kindOf_status .noteOff ch, decodeTwo, show 0x8#4 = CvKind.nibble .noteOff from rfl]

theorem encNoteOn (ch : Nibble) (data1 data2 : Byte) : Statement (.encNoteOn ch data1 data2) := by
  intro _
  simp [Instr.codec, decode, encode, decodeOutput, isData_status .noteOn ch, kindOf_status .noteOn ch, decodeTwo, show 0x9#4 = CvKind.nibble .noteOn from rfl]

theorem encPolyPressure (ch : Nibble) (data1 data2 : Byte) : Statement (.encPolyPressure ch data1 data2) := by
  intro _
  simp [Instr.codec, decode, encode, decodeOutput, isData_status .polyPressure ch, kindOf_status .polyPressure ch, decodeTwo, show 0xA#4 = CvKind.nibble .polyPressure from rfl]

theorem encControlChange (ch : Nibble) (data1 data2 : Byte) : Statement (.encControlChange ch data1 data2) := by
  intro _
  simp [Instr.codec, decode, encode, decodeOutput, isData_status .controlChange ch, kindOf_status .controlChange ch, decodeTwo, show 0xB#4 = CvKind.nibble .controlChange from rfl]

theorem encProgramChange (ch : Nibble) (data1 : Byte) : Statement (.encProgramChange ch data1) := by
  intro _
  simp [Instr.codec, decode, encode, decodeOutput, isData_status .programChange ch, kindOf_status .programChange ch, decodeOne, show 0xC#4 = CvKind.nibble .programChange from rfl]

theorem encChannelPressure (ch : Nibble) (data1 : Byte) : Statement (.encChannelPressure ch data1) := by
  intro _
  simp [Instr.codec, decode, encode, decodeOutput, isData_status .channelPressure ch, kindOf_status .channelPressure ch, decodeOne, show 0xD#4 = CvKind.nibble .channelPressure from rfl]

theorem encPitchBend (ch : Nibble) (data1 data2 : Byte) : Statement (.encPitchBend ch data1 data2) := by
  intro _
  simp [Instr.codec, decode, encode, decodeOutput, isData_status .pitchBend ch, kindOf_status .pitchBend ch, decodeTwo, show 0xE#4 = CvKind.nibble .pitchBend from rfl]

theorem encMtcQuarterFrame (value : Byte) : Statement (.encMtcQuarterFrame value) := by
  intro _; rfl

theorem encSongPosition (lsb msb : Byte) : Statement (.encSongPosition lsb msb) := by
  intro _; rfl

theorem encSongSelect (number : Byte) : Statement (.encSongSelect number) := by
  intro _; rfl

theorem encTuneRequest : Statement .encTuneRequest := by
  intro _; rfl

theorem encSysexComplete (data : List Byte) : Statement (.encSysexComplete data) := by
  intro h
  have h247 : isData 0xF7#8 = false := by decide
  have hd := splitData_data_then h h247 []
  simp [Instr.codec, decode, encode, decodeOutput, show isData 0xF0#8 = false by decide, show kindOf 0xF0#8 = none by decide, decodeSystemOutput, show lowNibble 0xF0#8 = 0#4 by decide, decodeBracketed, hd]

theorem encSysexStart (data : List Byte) : Statement (.encSysexStart data) := by
  intro h
  have hd := splitData_data h
  simp [Instr.codec, decode, encode, decodeOutput, show isData 0xF0#8 = false by decide, show kindOf 0xF0#8 = none by decide, decodeSystemOutput, show lowNibble 0xF0#8 = 0#4 by decide, decodeBracketed, hd]

theorem encSysexContinue (data : List Byte) : Statement (.encSysexContinue data) := by
  intro h
  have hd := splitData_data h
  cases data with
  | nil => rfl
  | cons b bs =>
    have hb : isData b = true := by simp [Instr.wellFormed, dataWellFormed] at h; exact h.1
    simp [Instr.codec, decode, encode, decodeOutput, hb, decodeBare, hd]

theorem encSysexEnd (data : List Byte) : Statement (.encSysexEnd data) := by
  intro h
  have hd := splitData_data_then h (show isData 0xF7#8 = false by decide) []
  cases data with
  | nil => rfl
  | cons b bs =>
    have hb : isData b = true := by simp [Instr.wellFormed, dataWellFormed] at h; exact h.1
    rw [List.cons_append] at hd
    simp [Instr.codec, decode, encode, decodeOutput, hb, decodeBare, hd]

theorem encTimingClock : Statement .encTimingClock := by
  intro _; rfl

theorem encRtStart : Statement .encRtStart := by
  intro _; rfl

theorem encRtContinue : Statement .encRtContinue := by
  intro _; rfl

theorem encRtStop : Statement .encRtStop := by
  intro _; rfl

theorem encActiveSensing : Statement .encActiveSensing := by
  intro _; rfl

theorem encRtReset : Statement .encRtReset := by
  intro _; rfl

end Sys2Proof.Laws.RoundTrip
end

