-- ==== Sys2Proof/Laws/Step.lean ====
section
/-! SUPPORT. Everything one step can do, said once (`step_cases`): proofs about every step cite it and never unfold `step`. -/

namespace Sys2Proof.Machine

/-- An encoder operation hands over bytes and does nothing else (R110); which bytes they are is its meaning's business. -/
theorem exec_encoder (i : Instr) (s : State) (h : i.codec = .enc) : ∃ bytes, exec i s = .next (deliver bytes s) := by
  cases i <;> first
    | exact ⟨_, rfl⟩
    | (exfalso; revert h; simp [Instr.codec])

/-- What an event selects is an encoder operation. -/
theorem codec_of_selectOperation {e : Event} {i : Instr} (h : selectOperation e = .ok i) : i.codec = .enc := by
  cases e with
  | channelVoice g s a b =>
    simp only [selectOperation] at h
    split at h <;> first
      | (cases h; done)
      | (cases h; rfl)
      | (cases b <;> cases h; rfl)
  | sysex g k d => cases k <;> cases h <;> rfl
  | realtime g k => cases k <;> cases h <;> rfl
  | _ => cases h; rfl

/-- `Peek()` reads three fields. -/
theorem peek_congr {s t : State} (h1 : t.pos = s.pos) (h2 : t.src = s.src) (h3 : t.ended = s.ended) : peek t = peek s := by
  unfold peek; rw [h1, h2, h3]

/-- The ways from a state to its next state. -/
inductive StepCase (s t : State) : Prop
  /-- nothing to do, or the decoder's turn between pulls -/
  | idle (rest : List Turn) (agenda : rest = s.agenda ∨ s.agenda = .iterate :: rest) (pulling : s.pulling = false)
      (next : t = popTurn rest s)
  /-- an iteration; the turn taken from the agenda, if any, is the decoder's -/
  | iterate (rest : List Turn) (agenda : rest = s.agenda ∨ s.agenda = .iterate :: rest) (pulling : s.pulling = true)
      (next : t = applyMove (move s.cfgGroup s.slot (peek s)) (popTurn rest s))
  /-- a pull is accepted -/
  | pull (rest : List Turn) (agenda : s.agenda = .pull :: rest) (pulling : s.pulling = false)
      (next : t = beginPull (popTurn rest s))
  /-- the encoder hands over bytes -/
  | encode (rest : List Turn) (e : Event) (i : Instr) (bytes : List Byte) (agenda : s.agenda = .encode e :: rest)
      (selected : selectOperation e = .ok i) (next : t = deliver bytes (popTurn rest s))
  /-- a byte is presented -/
  | present (rest : List Turn) (b : Byte) (agenda : s.agenda = .present b :: rest) (notEnded : s.ended = false)
      (next : t = { s with agenda := rest, src := s.src.append b })
  /-- END is signalled -/
  | finish (rest : List Turn) (agenda : s.agenda = .finish :: rest) (next : t = signalEnd (popTurn rest s))
  /-- reset -/
  | reset (rest : List Turn) (agenda : s.agenda = .reset :: rest) (next : t = resetDecoder (popTurn rest s))

theorem iterate_popTurn (rest : List Turn) (s : State) :
    iterate (popTurn rest s) = .next (applyMove (move s.cfgGroup s.slot (peek s)) (popTurn rest s)) := by
  rw [iterate_eq]; rfl

/-- Every step that answers a next state is one of the ways above. -/
theorem step_cases {s t : State} (h : step s = .next t) : StepCase s t := by
  have self : iterate s = .next (applyMove (move s.cfgGroup s.slot (peek s)) (popTurn s.agenda s)) := iterate_eq s
  unfold step at h
  split at h
  · unfold decoderTurn at h
    split at h
    · rename_i hp; rw [self] at h; cases h; exact .iterate _ (.inl rfl) hp rfl
    · rename_i hp; cases h; exact .idle s.agenda (.inl rfl) (by simpa using hp) rfl
  · rename_i rest ha
    unfold decoderTurn at h
    split at h
    · rename_i hp; rw [iterate_popTurn] at h; cases h; exact .iterate rest (.inr ha) hp rfl
    · rename_i hp; cases h; exact .idle rest (.inr ha) (by simpa using hp) rfl
  · rename_i e rest ha
    unfold encoderTurn at h
    split at h
    · rename_i i hi
      obtain ⟨bytes, hx⟩ := exec_encoder i (popTurn rest s) (codec_of_selectOperation hi)
      rw [hx] at h; cases h; exact .encode rest e i bytes ha hi rfl
    · cases h
  · rename_i b rest ha
    unfold presentByte at h
    split at h
    · cases h
    · rename_i he; cases h; exact .present rest b ha (by simpa using he) rfl
  · rename_i rest ha; cases h; exact .finish rest ha rfl
  · rename_i rest ha; cases h; exact .reset rest ha rfl
  · rename_i rest ha
    split at h
    · rename_i hp; rw [self] at h; cases h; exact .iterate _ (.inl rfl) hp rfl
    · rename_i hp; cases h; exact .pull rest ha (by simpa using hp) rfl

/-- The source of a good state after the transport's append. -/
theorem append_of_inv {s : State} (h : Inv s) (b : Byte) : s.src.append b = Memory.ofBytes (s.src.bytes ++ [b]) := by
  conv_lhs => rw [h.dense]
  simp

/-- Reading the source of a good state. -/
theorem read_of_inv {s : State} (h : Inv s) (a : Nat) : s.src.read a = s.src.bytes[a]? := by
  conv_lhs => rw [h.dense]
  simp

end Sys2Proof.Machine
end

