-- ==== Sys2Proof/Tests/Slice0.lean ====
section
/-! SUPPORT. The model's own tests: ill-formed terms refused, every constructor's word written out from spec/opcode_table.json,
one step per instruction with the expected values of 95_test_vectors.md (V, E) or of the rule named, and for
every obligation with hypotheses a witness that meets them. -/

namespace Sys2Proof.Tests
open Sys2Proof.Machine Sys2Proof.Stated

/-! ## Helpers -/

/-- A decoder of group 5 in the middle of a pull, holding this in its slot, with these bytes at the cursor. -/
def holding (slot : Option Builder) (bytes : List Byte) : State :=
  { State.reset with cfgGroup := 5#8, slot := slot, src := Memory.ofBytes bytes, pulling := true }

/-- The same before END. -/
def holdingAtEnd (slot : Option Builder) : State := { holding slot [] with ended := true }

/-- What a test looks at: the cursor, the slot, the answers given and whether the pull goes on. -/
def look : Result → Option (Nat × Option Builder × List PullResult × Bool)
  | .next s => some (s.pos, s.slot, s.out, s.pulling)
  | .fault _ => none
  | .refused _ => none

/-- The encodings handed over. -/
def wire : Result → Option (List (List Byte))
  | .next s => some s.encOut
  | .fault _ => none
  | .refused _ => none

/-- The reason of a refusal. -/
def reason : Result → Option Refusal
  | .next _ => none
  | .fault _ => none
  | .refused r => some r

/-- The encoder's turn on one event. -/
def asked (e : Event) : State := { holding none [] with agenda := [.encode e] }

/-! ## Ill-formed terms (R96) -/

theorem test_wellFormed_refuses_status_in_complete : (Instr.encSysexComplete [0x01#8, 0x80#8]).wellFormed = false := by decide
theorem test_wellFormed_refuses_f0_in_start : (Instr.encSysexStart [0xF0#8]).wellFormed = false := by decide
theorem test_wellFormed_refuses_f7_in_continue : (Instr.encSysexContinue [0xF7#8, 0x02#8]).wellFormed = false := by decide
theorem test_wellFormed_refuses_ff_in_end : (Instr.encSysexEnd [0xFF#8]).wellFormed = false := by decide
theorem test_wellFormed_accepts_7f : (Instr.encSysexEnd [0x7F#8, 0x00#8]).wellFormed = true := by decide
/-- R104: a 7-bit field, a known kind, and `data2` exactly for the two-data-byte kinds. -/
theorem test_valid_refuses :
    (Event.channelVoice 0#8 0x90#8 0x3C#8 (some 0x80#8)).valid = false ∧ (Event.channelVoice 0#8 0x90#8 0x3C#8 none).valid = false ∧
    (Event.channelVoice 0#8 0xC0#8 0x3C#8 (some 0x00#8)).valid = false ∧ (Event.channelVoice 0#8 0xF0#8 0x3C#8 none).valid = false ∧
    (Event.songPosition 0#8 0x7F#8 0x80#8).valid = false ∧ (Event.sysex 0#8 .sxStart [0xF7#8]).valid = false := by decide

/-! ## Decoding: one word per row, written out from its `encoding` -/

theorem test_decode_data : decode .dec [0b0_1111111#8] = .instr (.data 0b1111111#7) [] := by decide
theorem test_decode_noteOff : decode .dec [0b1000_0101#8, 0x0D#8] = .instr (.noteOff 0b0101#4) [0x0D#8] := by decide
theorem test_decode_noteOn : decode .dec [0b1001_0011#8] = .instr (.noteOn 0b0011#4) [] := by decide
theorem test_decode_polyPressure : decode .dec [0b1010_0001#8] = .instr (.polyPressure 0b0001#4) [] := by decide
theorem test_decode_controlChange : decode .dec [0b1011_0000#8] = .instr (.controlChange 0b0000#4) [] := by decide
theorem test_decode_programChange : decode .dec [0b1100_1111#8] = .instr (.programChange 0b1111#4) [] := by decide
theorem test_decode_channelPressure : decode .dec [0b1101_0100#8] = .instr (.channelPressure 0b0100#4) [] := by decide
theorem test_decode_pitchBend : decode .dec [0b1110_0010#8] = .instr (.pitchBend 0b0010#4) [] := by decide
theorem test_decode_systemCommon :
    decode .dec [0b11110000#8] = .instr .sysexStart [] ∧ decode .dec [0b11110001#8] = .instr .mtcQuarterFrame [] ∧
    decode .dec [0b11110010#8] = .instr .songPosition [] ∧ decode .dec [0b11110011#8] = .instr .songSelect [] ∧
    decode .dec [0b11110100#8] = .instr .reservedF4 [] ∧ decode .dec [0b11110101#8] = .instr .reservedF5 [] ∧
    decode .dec [0b11110110#8] = .instr .tuneRequest [] ∧ decode .dec [0b11110111#8] = .instr .sysexEnd [] := by decide
theorem test_decode_realtime :
    decode .dec [0b11111000#8] = .instr .timingClock [] ∧ decode .dec [0b11111001#8] = .instr .reservedF9 [] ∧
    decode .dec [0b11111010#8] = .instr .rtStart [] ∧ decode .dec [0b11111011#8] = .instr .rtContinue [] ∧
    decode .dec [0b11111100#8] = .instr .rtStop [] ∧ decode .dec [0b11111101#8] = .instr .reservedFD [] ∧
    decode .dec [0b11111110#8] = .instr .activeSensing [] ∧ decode .dec [0b11111111#8] = .instr .rtReset [] := by decide
theorem test_decode_enc_twoDataBytes :
    decode .enc [0b1000_0101#8, 0x0D#8, 0x0E#8] = .instr (.encNoteOff 5#4 0x0D#8 0x0E#8) [] ∧
    decode .enc [0b1001_0011#8, 0x3C#8, 0x64#8] = .instr (.encNoteOn 3#4 0x3C#8 0x64#8) [] ∧
    decode .enc [0b1010_0001#8, 0x40#8, 0x7F#8] = .instr (.encPolyPressure 1#4 0x40#8 0x7F#8) [] ∧
    decode .enc [0b1011_0000#8, 0x07#8, 0x64#8] = .instr (.encControlChange 0#4 0x07#8 0x64#8) [] ∧
    decode .enc [0b1110_0010#8, 0x00#8, 0x40#8] = .instr (.encPitchBend 2#4 0x00#8 0x40#8) [] := by decide
theorem test_decode_enc_oneDataByte :
    decode .enc [0b1100_0101#8, 0x07#8, 0x55#8] = .instr (.encProgramChange 5#4 0x07#8) [0x55#8] ∧
    decode .enc [0b1101_1111#8, 0x7F#8] = .instr (.encChannelPressure 15#4 0x7F#8) [] := by decide
theorem test_decode_enc_systemCommon :
    decode .enc [0b11110001#8, 0x35#8] = .instr (.encMtcQuarterFrame 0x35#8) [] ∧
    decode .enc [0b11110010#8, 0x7F#8, 0x01#8] = .instr (.encSongPosition 0x7F#8 0x01#8) [] ∧
    decode .enc [0b11110011#8, 0x05#8] = .instr (.encSongSelect 0x05#8) [] ∧
    decode .enc [0b11110110#8] = .instr .encTuneRequest [] := by decide
theorem test_decode_enc_sysex :
    decode .enc [0b11110000#8, 0x7E#8, 0x01#8, 0b11110111#8] = .instr (.encSysexComplete [0x7E#8, 0x01#8]) [] ∧
    decode .enc [0b11110000#8, 0x03#8] = .instr (.encSysexStart [0x03#8]) [] ∧
    decode .enc [0x03#8, 0x04#8] = .instr (.encSysexContinue [0x03#8, 0x04#8]) [] ∧
    decode .enc [0x05#8, 0b11110111#8] = .instr (.encSysexEnd [0x05#8]) [] := by decide
theorem test_decode_enc_realtime :
    decode .enc [0b11111000#8] = .instr .encTimingClock [] ∧ decode .enc [0b11111010#8] = .instr .encRtStart [] ∧
    decode .enc [0b11111011#8] = .instr .encRtContinue [] ∧ decode .enc [0b11111100#8] = .instr .encRtStop [] ∧
    decode .enc [0b11111110#8] = .instr .encActiveSensing [] ∧ decode .enc [0b11111111#8] = .instr .encRtReset [] := by decide
theorem test_decode_rejects :
    decode .dec [] = .reject .noByte ∧ decode .enc [0xF5#8] = .reject (.noOperation 0xF5#8) ∧
    decode .enc [0xF9#8] = .reject (.noOperation 0xF9#8) ∧ decode .enc [0xFD#8] = .reject (.noOperation 0xFD#8) ∧
    decode .enc [0xC5#8] = .reject (.truncated 0xC5#8) := by decide

/-! ## Table words (log entry 9): `c` of `ENC_NOTE_OFF` stands at bits 19:16 of spec/opcode_table.json, `b` at 7:0 -/

theorem test_tableWord_noteOn : decodeTableWord 8 0x93 = some (.noteOn 3#4) := by decide
theorem test_tableWord_encNoteOff : decodeTableWord 24 0x850D0E = some (.encNoteOff 5#4 0x0D#8 0x0E#8) := by decide
theorem test_tableWord_encSongSelect : decodeTableWord 16 0xF305 = some (.encSongSelect 5#8) := by decide
/-- A one-byte word is the decoder's. -/
theorem test_tableWord_f6 : decodeTableWord 8 0xF6 = some .tuneRequest := by decide
theorem test_fetchWord_runs_decoder_row :
    step (State.reset.withFetchWord 8 0x93) = exec (.noteOn 3#4) (State.reset.withFetchWord 8 0x93) := by rfl
theorem test_fetchWord_runs_encoder_row :
    step (State.reset.withFetchWord 24 0x850D0E) = exec (.encNoteOff 5#4 0x0D#8 0x0E#8) State.reset := by rfl
theorem test_fetchWord_effect : look (step ((holding none []).withFetchWord 8 0x93)) =
    some (1, some (.cv 0x93#8 (.two none)), [], true) := by decide

/-! ## The decoder's instructions -/

/-- V41: a bare data byte opens a sysex continuation. -/
theorem test_data_opens : look (exec (.data 0x7F#7) (holding none [])) = some (1, some (.sx false [0x7F#8]), [], true) := by decide
/-- E6: zero velocity; the slot keeps the note-on. -/
theorem test_data_zeroVelocity : look (exec (.data 0#7) (holding (some (.cv 0x9C#8 (.two (some 0x3C#7)))) [])) =
    some (1, some (.cv 0x9C#8 (.two none)), [.event (.channelVoice 5#8 0x8C#8 0x3C#8 (some 0x40#8))], false) := by decide
theorem test_noteOff_opens : look (exec (.noteOff 0#4) (holding none [])) =
    some (1, some (.cv 0x80#8 (.two none)), [], true) := by decide
/-- E5: the status byte that truncates is not consumed. -/
theorem test_noteOff_truncates : look (exec (.noteOff 0#4) (holding (some (.cv 0x80#8 (.two (some 0x3C#7)))) [])) =
    some (0, none, [], true) := by decide
theorem test_noteOn_opens : look (exec (.noteOn 3#4) (holding none [])) =
    some (1, some (.cv 0x93#8 (.two none)), [], true) := by decide
/-- E7: a sysex interrupted. -/
theorem test_noteOn_interrupts_sysex : look (exec (.noteOn 3#4) (holding (some (.sx true [3#8, 4#8])) [])) =
    some (0, none, [.event (.sysex 5#8 .sxStart [3#8, 4#8])], false) := by decide
theorem test_polyPressure_opens : look (exec (.polyPressure 1#4) (holding none [])) =
    some (1, some (.cv 0xA1#8 (.two none)), [], true) := by decide
theorem test_polyPressure_ends_songPosition : look (exec (.polyPressure 1#4) (holding (some (.sp (some 1#7))) [])) =
    some (0, none, [], true) := by decide
theorem test_controlChange_opens : look (exec (.controlChange 15#4) (holding none [])) =
    some (1, some (.cv 0xBF#8 (.two none)), [], true) := by decide
theorem test_controlChange_ends_songSelect : look (exec (.controlChange 0#4) (holding (some (.sc .ss)) [])) =
    some (0, none, [], true) := by decide
theorem test_programChange_opens : look (exec (.programChange 5#4) (holding none [])) =
    some (1, some (.cv 0xC5#8 .one), [], true) := by decide
theorem test_programChange_ends_runningStatus : look (exec (.programChange 5#4) (holding (some (.cv 0xC5#8 .one)) [])) =
    some (0, none, [], true) := by decide
theorem test_channelPressure_opens : look (exec (.channelPressure 4#4) (holding none [])) =
    some (1, some (.cv 0xD4#8 .one), [], true) := by decide
theorem test_pitchBend_opens : look (exec (.pitchBend 2#4) (holding none [])) =
    some (1, some (.cv 0xE2#8 (.two none)), [], true) := by decide
theorem test_pitchBend_interrupts_continuation : look (exec (.pitchBend 2#4) (holding (some (.sx false [9#8])) [])) =
    some (0, none, [.event (.sysex 5#8 .sxContinue [9#8])], false) := by decide
theorem test_sysexStart_opens : look (exec .sysexStart (holding none [])) = some (1, some (.sx true []), [], true) := by decide
/-- A second 0xF0 interrupts the first, which has no data yet (R190). -/
theorem test_sysexStart_interrupts : look (exec .sysexStart (holding (some (.sx true [])) [])) =
    some (0, none, [.event (.sysex 5#8 .sxStart [])], false) := by decide
theorem test_mtcQuarterFrame_opens : look (exec .mtcQuarterFrame (holding none [])) =
    some (1, some (.sc .qf), [], true) := by decide
theorem test_songPosition_opens : look (exec .songPosition (holding none [])) = some (1, some (.sp none), [], true) := by decide
theorem test_songSelect_opens : look (exec .songSelect (holding none [])) = some (1, some (.sc .ss), [], true) := by decide
/-- E8. -/
theorem test_reservedF4_dropped : look (exec .reservedF4 (holding none [])) = some (1, none, [], true) := by decide
/-- R181: a reserved status byte ends running status too, and is looked at again. -/
theorem test_reservedF4_ends_runningStatus : look (exec .reservedF4 (holding (some (.cv 0x80#8 (.two none))) [])) =
    some (0, none, [], true) := by decide
theorem test_reservedF5_dropped : look (exec .reservedF5 (holding none [])) = some (1, none, [], true) := by decide
theorem test_reservedF5_interrupts_sysex : look (exec .reservedF5 (holding (some (.sx true [1#8])) [])) =
    some (0, none, [.event (.sysex 5#8 .sxStart [1#8])], false) := by decide
theorem test_tuneRequest_emits : look (exec .tuneRequest (holding none [])) =
    some (1, none, [.event (.tuneRequest 5#8)], false) := by decide
theorem test_tuneRequest_truncates : look (exec .tuneRequest (holding (some (.sc .qf)) [])) = some (0, none, [], true) := by decide
/-- E2. -/
theorem test_sysexEnd_completes : look (exec .sysexEnd (holding (some (.sx true [0x7E#8])) [])) =
    some (1, none, [.event (.sysex 5#8 .sxComplete [0x7E#8])], false) := by decide
theorem test_sysexEnd_ends_continuation : look (exec .sysexEnd (holding (some (.sx false [5#8])) [])) =
    some (1, none, [.event (.sysex 5#8 .sxEnd [5#8])], false) := by decide
/-- E4: a realtime byte in the middle of a message. -/
theorem test_rtReset_between : look (exec .rtReset (holding (some (.cv 0x80#8 (.two (some 0x3C#7)))) [])) =
    some (1, some (.cv 0x80#8 (.two (some 0x3C#7))), [.event (.realtime 5#8 .rtReset)], false) := by decide
theorem test_timingClock : look (exec .timingClock (holding none [])) =
    some (1, none, [.event (.realtime 5#8 .timingClock)], false) := by decide
theorem test_reservedF9_in_sysex : look (exec .reservedF9 (holding (some (.sx true [1#8])) [])) =
    some (1, some (.sx true [1#8]), [], true) := by decide
theorem test_rtStart : look (exec .rtStart (holding none [])) = some (1, none, [.event (.realtime 5#8 .rtStart)], false) := by decide
theorem test_rtContinue : look (exec .rtContinue (holding none [])) =
    some (1, none, [.event (.realtime 5#8 .rtContinue)], false) := by decide
theorem test_rtStop : look (exec .rtStop (holding none [])) = some (1, none, [.event (.realtime 5#8 .rtStop)], false) := by decide
theorem test_reservedFD_in_message : look (exec .reservedFD (holding (some (.cv 0xC0#8 .one)) [])) =
    some (1, some (.cv 0xC0#8 .one), [], true) := by decide
theorem test_activeSensing_in_sysex : look (exec .activeSensing (holding (some (.sx false [1#8])) [])) =
    some (1, some (.sx false [1#8]), [.event (.realtime 5#8 .activeSensing)], false) := by decide

/-! ## The loop's ends (R212, R214, R215) -/

theorem test_empty_pending : look (step (holding (some (.sp none)) [])) = some (0, some (.sp none), [.pending], false) := by decide
theorem test_end_flushes_sysex : look (step (holdingAtEnd (some (.sx false [0x0D#8])))) =
    some (0, none, [.event (.sysex 5#8 .sxContinue [0x0D#8])], false) := by decide
theorem test_end_drops_message : look (step (holdingAtEnd (some (.cv 0x80#8 (.two none))))) =
    some (0, none, [.exhausted], false) := by decide

/-! ## The outside world (R46, R260) -/

theorem test_present_appends : step { holding none [1#8] with agenda := [.present 0x80#8] } =
    .next { holding none [1#8] with src := [(0, 1#8), (1, 0x80#8)] } := by rfl
theorem test_reset_drops_sysex : look (step { holding (some (.sx true [1#8])) [2#8] with agenda := [.reset] }) =
    some (0, none, [], true) := by decide

/-! ## The encoder's operations (V1 to V35) -/

theorem test_encNoteOff_V1 : wire (exec (.encNoteOff 0#4 0x0D#8 0x0E#8) (holding none [])) = some [[0x80#8, 0x0D#8, 0x0E#8]] := by decide
/-- A zero velocity is not altered. -/
theorem test_encNoteOn_V4 : wire (exec (.encNoteOn 0#4 0x3C#8 0x00#8) (holding none [])) = some [[0x90#8, 0x3C#8, 0x00#8]] := by decide
/-- A data field out of range is written as it is. -/
theorem test_encNoteOn_V31 : wire (exec (.encNoteOn 0#4 0x3C#8 0x90#8) (holding none [])) = some [[0x90#8, 0x3C#8, 0x90#8]] := by decide
theorem test_encPolyPressure_V5 : wire (exec (.encPolyPressure 1#4 0x40#8 0x7F#8) (holding none [])) = some [[0xA1#8, 0x40#8, 0x7F#8]] := by decide
theorem test_encControlChange_V6 : wire (exec (.encControlChange 0#4 0x07#8 0x64#8) (holding none [])) = some [[0xB0#8, 0x07#8, 0x64#8]] := by decide
theorem test_encProgramChange_V7 : wire (exec (.encProgramChange 5#4 0x07#8) (holding none [])) = some [[0xC5#8, 0x07#8]] := by decide
/-- A present `data2` is ignored. -/
theorem test_encProgramChange_V8 : wire (step (asked (.channelVoice 0#8 0xC5#8 0x07#8 (some 0x55#8)))) = some [[0xC5#8, 0x07#8]] := by decide
theorem test_encChannelPressure_V9 : wire (exec (.encChannelPressure 0#4 0x00#8) (holding none [])) = some [[0xD0#8, 0x00#8]] := by decide
theorem test_encPitchBend_V10 : wire (exec (.encPitchBend 2#4 0x00#8 0x40#8) (holding none [])) = some [[0xE2#8, 0x00#8, 0x40#8]] := by decide
theorem test_encMtcQuarterFrame_V32 : wire (exec (.encMtcQuarterFrame 0xFF#8) (holding none [])) = some [[0xF1#8, 0xFF#8]] := by decide
theorem test_encSongPosition_V13 : wire (exec (.encSongPosition 0x00#8 0x40#8) (holding none [])) = some [[0xF2#8, 0x00#8, 0x40#8]] := by decide
theorem test_encSongSelect_V15 : wire (exec (.encSongSelect 0x05#8) (holding none [])) = some [[0xF3#8, 0x05#8]] := by decide
theorem test_encTuneRequest_V16 : wire (exec .encTuneRequest (holding none [])) = some [[0xF6#8]] := by decide
theorem test_encSysexComplete_V18 : wire (exec (.encSysexComplete []) (holding none [])) = some [[0xF0#8, 0xF7#8]] := by decide
/-- An element out of range is written as it is. -/
theorem test_encSysexComplete_V33 : wire (exec (.encSysexComplete [0x01#8, 0xF7#8, 0x02#8]) (holding none [])) =
    some [[0xF0#8, 0x01#8, 0xF7#8, 0x02#8, 0xF7#8]] := by decide
theorem test_encSysexStart_V19 : wire (exec (.encSysexStart [3#8, 4#8, 5#8, 6#8]) (holding none [])) =
    some [[0xF0#8, 3#8, 4#8, 5#8, 6#8]] := by decide
theorem test_encSysexContinue_V21 : wire (exec (.encSysexContinue [3#8, 4#8]) (holding none [])) = some [[3#8, 4#8]] := by decide
theorem test_encSysexContinue_V22 : wire (exec (.encSysexContinue []) (holding none [])) = some [[]] := by decide
theorem test_encSysexEnd_V23 : wire (exec (.encSysexEnd [5#8]) (holding none [])) = some [[5#8, 0xF7#8]] := by decide
theorem test_encTimingClock_V25 : wire (exec .encTimingClock (holding none [])) = some [[0xF8#8]] := by decide
theorem test_encRtStart_V26 : wire (exec .encRtStart (holding none [])) = some [[0xFA#8]] := by decide
theorem test_encRtContinue_V27 : wire (exec .encRtContinue (holding none [])) = some [[0xFB#8]] := by decide
theorem test_encRtStop_V28 : wire (exec .encRtStop (holding none [])) = some [[0xFC#8]] := by decide
theorem test_encActiveSensing_V29 : wire (exec .encActiveSensing (holding none [])) = some [[0xFE#8]] := by decide
theorem test_encRtReset_V30 : wire (exec .encRtReset (holding none [])) = some [[0xFF#8]] := by decide
theorem test_encoder_refuses_V35 :
    reason (step (asked (.channelVoice 0#8 0x7F#8 0#8 none))) = some (.encoderUnknownKind 0x7F#8) ∧
    reason (step (asked (.channelVoice 0#8 0xF0#8 0#8 none))) = some (.encoderUnknownKind 0xF0#8) ∧
    reason (step (asked (.channelVoice 0#8 0x90#8 0x3C#8 none))) = some (.encoderNoData2 0x90#8) := by decide

/-! ## Witnesses: states and operands that meet the hypotheses of the obligations -/

theorem witness_ByteValueMapIsTotal :
    0x00#8 < 0x80#8 ∧ 0x7F#8 < 0x80#8 ∧ (0x80#8 ≤ 0x8F#8 ∧ 0x8F#8 < 0x90#8) ∧ (0x90#8 ≤ 0x9F#8 ∧ 0x9F#8 < 0xA0#8) ∧
    (0xA0#8 ≤ 0xAF#8 ∧ 0xAF#8 < 0xB0#8) ∧ (0xB0#8 ≤ 0xBF#8 ∧ 0xBF#8 < 0xC0#8) ∧ (0xC0#8 ≤ 0xCF#8 ∧ 0xCF#8 < 0xD0#8) ∧
    (0xD0#8 ≤ 0xDF#8 ∧ 0xDF#8 < 0xE0#8) ∧ (0xE0#8 ≤ 0xEF#8 ∧ 0xEF#8 < 0xF0#8) ∧ decodeByte 0x80#8 = .noteOff 0#4 ∧
    decodeByte 0xEF#8 = .pitchBend 15#4 := by decide
theorem witness_StatusOfKindAndChannel :
    (0x80#8 ≤ 0x80#8 ∧ 0x80#8 ≤ 0xEF#8) ∧ kindOf 0x80#8 = some .noteOff ∧ kindOf 0xEF#8 = some .pitchBend := by decide
theorem witness_DecodeOfEncodeIsTheInstruction :
    (Instr.data 0x7F#7).wellFormed = true ∧ (Instr.encNoteOn 15#4 0xFF#8 0x00#8).wellFormed = true ∧
    (Instr.encSysexComplete [0x7F#8, 0x00#8]).wellFormed = true ∧ (Instr.encSysexContinue []).wellFormed = true := by decide
theorem witness_EncodeOfDecodeIsTheBytes :
    decode .dec [0xF4#8, 0x80#8] = .instr .reservedF4 [0x80#8] ∧
    decode .enc [0xF0#8, 0x01#8, 0xF0#8] = .instr (.encSysexStart [0x01#8]) [0xF0#8] := by decide
theorem witness_ChannelVoiceStatusByte :
    (holding none []).slot = none ∧ (holding (some (.sx false [1#8])) []).slot = some (.sx false [1#8]) := by decide
theorem witness_SystemCommonByte :
    (holding none []).slot = none ∧ (holding (some (.sp none)) []).slot = some (.sp none) := by decide
theorem witness_SysexEndByte :
    (holding none []).slot = none ∧ (holding (some (.sx true [])) []).slot = some (.sx true []) ∧
    (holding (some (.cv 0xC0#8 .one)) []).slot = some (.cv 0xC0#8 .one) ∧
    (holding (some (.sp (some 0x7F#7))) []).slot = some (.sp (some 0x7F#7)) ∧
    (holding (some (.sc .qf)) []).slot = some (.sc .qf) := by decide
/-- Both sides of the zero-velocity clause: a note-on with the last byte 0 and with 1, and a note-off with 0. -/
theorem witness_DataByteInEverySlot :
    (holding none []).slot = none ∧ (holding (some (.cv 0xDF#8 .one)) []).slot = some (.cv 0xDF#8 .one) ∧
    (holding (some (.cv 0x90#8 (.two none))) []).slot = some (.cv 0x90#8 (.two none)) ∧
    (holding (some (.cv 0x90#8 (.two (some 1#7)))) []).slot = some (.cv 0x90#8 (.two (some 1#7))) ∧
    ¬(0x90#8 >>> 4 = 9#8 ∧ 1#7 = 0#7) ∧ ¬(0x8F#8 >>> 4 = 9#8 ∧ 0#7 = 0#7) ∧ (0x9F#8 >>> 4 = 9#8 ∧ 0#7 = 0#7) ∧
    (holding (some (.sp none)) []).slot = some (.sp none) ∧ (holding (some (.sp (some 0#7))) []).slot = some (.sp (some 0#7)) ∧
    (holding (some (.sc .ss)) []).slot = some (.sc .ss) := by decide
theorem witness_StatusByteInterruptsTheBuilder :
    (holding (some (.cv 0x80#8 .one)) []).slot = some (.cv 0x80#8 .one) ∧ 0x80#8 ≤ 0xF7#8 ∧
    ¬(0xF7#8 = 0xF7#8 ∧ ∃ x d, Builder.cv 0x80#8 .one = .sx x d) ∧
    ¬(0x80#8 = 0xF7#8 ∧ ∃ x d, Builder.sx true [] = .sx x d) := by
  refine ⟨by decide, by decide, ?_, ?_⟩ <;> simp
theorem witness_EncoderOperationIsItsEncoding : (Instr.encSysexEnd [0xFF#8]).codec = .enc ∧ Instr.encRtReset.codec = .enc := by decide
theorem witness_EncodeTurnByTheKindOfStatus :
    (asked (.channelVoice 0#8 0x90#8 0#8 none)).agenda = .encode (.channelVoice 0#8 0x90#8 0#8 none) :: [] ∧
    (0x7F#8 < 0x80#8 ∧ 0xF0#8 ≤ 0xF0#8) ∧ (0xC0#8 ≤ 0xDF#8 ∧ 0xDF#8 < 0xE0#8) ∧ (0x80#8 ≤ 0xBF#8 ∧ 0xBF#8 < 0xC0#8) ∧
    (0xE0#8 ≤ 0xEF#8 ∧ 0xEF#8 < 0xF0#8) := by decide
/-- `asked e` meets the hypothesis for every event, so for each clause, with fields above 0x7F too. -/
theorem witness_EncodeTurnOfTheOtherVariants :
    (∀ e, (asked e).agenda = .encode e :: []) ∧ (asked (.quarterFrame 0#8 0xFF#8)).agenda = [.encode (.quarterFrame 0#8 0xFF#8)] ∧
    (asked (.sysex 0#8 .sxEnd [0x80#8, 0xF7#8])).agenda = [.encode (.sysex 0#8 .sxEnd [0x80#8, 0xF7#8])] :=
  ⟨fun _ => rfl, rfl, rfl⟩
/-- The decoder has the turn in three forms. -/
theorem decoderHasTurn_forms (s : State) (hp : s.pulling = true) :
    decoderHasTurn { s with agenda := [] } [] ∧ decoderHasTurn { s with agenda := [.iterate, .finish] } [.finish] ∧
    decoderHasTurn { s with agenda := [.pull, .finish] } [.pull, .finish] :=
  ⟨.inl ⟨rfl, rfl⟩, .inr (.inl rfl), .inr (.inr ⟨hp, ⟨_, rfl⟩, rfl⟩)⟩
/-- A byte at the cursor with the turn in each form; no pull in progress with the turn in both of its forms; an encode turn. -/
theorem witness_StepRunsTheDecodedInstruction :
    (holding none [0xF6#8]).pulling = true ∧ (holding none [0xF6#8]).src.read (holding none [0xF6#8]).pos = some 0xF6#8 ∧
    decoderHasTurn (holding none [0xF6#8]) [] ∧
    decoderHasTurn { holding none [0xF6#8] with agenda := [.iterate, .finish] } [.finish] ∧
    decoderHasTurn { holding none [0xF6#8] with agenda := [.pull, .finish] } [.pull, .finish] ∧
    State.reset.pulling = false ∧ decoderHasTurn State.reset [] ∧
    decoderHasTurn { State.reset with agenda := [.iterate, .pull] } [.pull] ∧
    selectOperation (.tuneRequest 0#8) = .ok .encTuneRequest ∧ (asked (.tuneRequest 0#8)).agenda = .encode (.tuneRequest 0#8) :: [] :=
  have h := decoderHasTurn_forms (holding none [0xF6#8]) rfl
  ⟨rfl, rfl, h.1, h.2.1, h.2.2, rfl, .inl ⟨rfl, rfl⟩, .inr (.inl rfl), rfl, rfl⟩
theorem witness_EmptyAnswersPending :
    (let s := { holding (some (.sp none)) [] with agenda := [.pull, .finish] };
      s.pulling = true ∧ decoderHasTurn s [.pull, .finish] ∧ s.src.read s.pos = none ∧ s.ended = false) ∧
    (let s := { holding none [] with agenda := [.iterate, .finish] };
      s.pulling = true ∧ decoderHasTurn s [.finish] ∧ s.src.read s.pos = none ∧ s.ended = false) ∧
    decoderHasTurn (holding none []) [] ∧
    iterate (holding none []) = .next { holding none [] with out := [] ++ [.pending], pulling := false } :=
  have h := decoderHasTurn_forms (holding (some (.sp none)) []) rfl
  ⟨⟨rfl, h.2.2, rfl, rfl⟩, ⟨rfl, .inr (.inl rfl), rfl, rfl⟩, .inl ⟨rfl, rfl⟩, rfl⟩
/-- END with each builder; the turn has its three forms, as in `decoderHasTurn_forms`. -/
theorem witness_EndFlushesTheBuilder :
    (∀ B ∈ [none, some (Builder.sx true []), some (.sx false [1#8]), some (.cv 0x90#8 (.two (some 0#7))), some (.sp none),
        some (.sc .ss)],
      (holdingAtEnd B).pulling = true ∧ (holdingAtEnd B).agenda = [] ∧ (holdingAtEnd B).ended = true ∧
      (holdingAtEnd B).src.read (holdingAtEnd B).pos = none ∧ (holdingAtEnd B).slot = B) ∧
    (∀ B, decoderHasTurn (holdingAtEnd B) [] ∧
      decoderHasTurn { holdingAtEnd B with agenda := [.iterate, .finish] } [.finish] ∧
      decoderHasTurn { holdingAtEnd B with agenda := [.pull, .finish] } [.pull, .finish]) :=
  ⟨by decide, fun B => decoderHasTurn_forms (holdingAtEnd B) rfl⟩
/-- A byte consumed at once, a byte looked at twice, and no byte. -/
theorem witness_CursorAdvancesByZeroOrOne :
    (peek (holding none [0x80#8]) = .byte 0x80#8 ∧ advances none 0x80#8) ∧
    (peek (holding (some (.cv 0x80#8 (.two none))) [0xF7#8]) = .byte 0xF7#8 ∧
      ¬advances (some (.cv 0x80#8 (.two none))) 0xF7#8) ∧
    peek (holding none []) = .empty ∧ peek (holdingAtEnd none) = .ended := by
  refine ⟨⟨by decide, .inr (.inl rfl)⟩, ⟨by decide, ?_⟩, by decide, by decide⟩
  simp [advances]
/-- An iteration with an answer and one without. -/
theorem witness_OneAnswerEndsThePull :
    iterate (holding none [0xF6#8]) = .next { holding none [0xF6#8] with
      pos := 1, out := [.event (.tuneRequest 5#8)], pulling := false } ∧
    iterate (holding none [0x80#8]) = .next { holding none [0x80#8] with pos := 1, slot := some (.cv 0x80#8 (.two none)) } :=
  ⟨rfl, rfl⟩
theorem inv_holding (bytes : List Byte) : Inv (holding none bytes) where
  slot := by simp [holding]
  canonical := Memory.wf_ofBytes bytes
  dense := by simp [holding]
  cursor := Nat.zero_le _
  events := by simp [holding, State.reset]
theorem witness_PullEndsWithinItsBound :
    Inv (holding none [0x80#8, 0x3C#8]) ∧ (holding none [0x80#8, 0x3C#8]).pulling = true ∧
    (holding none [0x80#8, 0x3C#8]).agenda = [] := ⟨inv_holding _, rfl, rfl⟩
/-- Truncation by a byte (running status not used yet) and at END; a reserved byte of both ranges; a sysex interrupted. -/
theorem witness_ConditionsTellTheirEffect :
    (let s := holding (some (.cv 0x80#8 (.two none))) [0x80#8]; raised s.slot (peek s) false = some .truncation) ∧
    (let s := holdingAtEnd (some (.sp none)); raised s.slot (peek s) true = some .truncation) ∧
    (let s := holding none [0xF7#8]; raised s.slot (peek s) true = some .reservedByte) ∧
    (let s := holding (some (.sp none)) [0xFD#8]; raised s.slot (peek s) true = some .reservedByte) ∧
    (let s := holding (some (.sx true [])) [0xF6#8]; raised s.slot (peek s) true = some .sysexInterruption) := by decide
theorem witness_ResetDropsTheBuilder :
    ({ holding (some (.sx true [1#8])) [2#8] with agenda := [.reset, .finish] } : State).agenda = .reset :: [.finish] := by decide
theorem inv_holding_agenda (bytes : List Byte) (turns : List Turn) : Inv { holding none bytes with agenda := turns } :=
  ⟨(inv_holding bytes).slot, (inv_holding bytes).canonical, (inv_holding bytes).dense, (inv_holding bytes).cursor,
    (inv_holding bytes).events⟩
theorem witness_OutsideTransactions :
    (let s := { holding none [1#8] with agenda := [.present 2#8] };
      s.agenda = .present 2#8 :: [] ∧ s.ended = false ∧ Inv s) ∧
    (let s := { holdingAtEnd none with agenda := [.present 2#8] }; s.agenda = .present 2#8 :: [] ∧ s.ended = true) ∧
    (let s := { holding none [] with agenda := [.finish] }; s.agenda = .finish :: []) ∧
    (let s := { State.reset with agenda := [.pull] }; s.agenda = .pull :: [] ∧ s.pulling = false) :=
  ⟨⟨rfl, rfl, inv_holding_agenda _ _⟩, ⟨rfl, rfl⟩, rfl, rfl, rfl⟩
/-- A step of the kind that might write `cfg_group`: reset. -/
theorem witness_StateAfterReset :
    step { holding (some (.sp none)) [1#8] with agenda := [.reset] } = .next { holding none [] with pulling := true } := by rfl
theorem witness_DecoderInstructionFrame : (Instr.data 0#7).codec = .dec ∧ Instr.rtReset.codec = .dec := by decide
theorem witness_StepNeverTakesBack :
    (holding none [0x80#8]).src.wf = true ∧ (holding none [0x80#8]).agenda.head? ≠ some .reset ∧
    step (holding none [0x80#8]) = .next { holding none [0x80#8] with pos := 1, slot := some (.cv 0x80#8 (.two none)) } :=
  ⟨rfl, by decide, rfl⟩
theorem witness_RefusedOnlyOutsideTheDomain :
    step { holdingAtEnd none with agenda := [.present 1#8] } = .refused (.byteAfterEnd 1#8) ∧
    step (asked (.channelVoice 0#8 0x7F#8 0#8 none)) = .refused (.encoderUnknownKind 0x7F#8) ∧
    step (asked (.channelVoice 0#8 0x90#8 0#8 none)) = .refused (.encoderNoData2 0x90#8) := ⟨rfl, rfl, rfl⟩
theorem witness_StepKeepsTheInvariant :
    Inv (holding none [0x80#8]) ∧
    step (holding none [0x80#8]) = .next { holding none [0x80#8] with pos := 1, slot := some (.cv 0x80#8 (.two none)) } :=
  ⟨inv_holding _, rfl⟩
theorem witness_DecodedEventsAreWellFormed (g : Byte) : Event.tuneRequest g ∈ decodeStream g [0xF6#8] := by
  rw [decodeStream_eq]; exact List.mem_singleton.2 rfl
theorem witness_RoundTripOfEveryValidEvent :
    (Event.channelVoice 5#8 0x9C#8 0x3C#8 (some 0#8)).valid = true ∧ (Event.channelVoice 5#8 0x9C#8 0x3C#8 (some 0#8)).group = 5#8 ∧
    (Event.sysex 5#8 .sxContinue []).valid = true ∧ (Event.channelVoice 5#8 0xC0#8 0x7F#8 none).valid = true := by decide
/-- A realtime byte after a sysex fragment that only END flushes: `due` is that fragment. -/
theorem witness_RealtimeBytesAreTransparent (g : Byte) :
    realtimeOf 0xF8#8 = some .timingClock ∧ realtimeOf 0xFF#8 = some .rtReset ∧
    decodeStream g [0xF6#8, 0xF0#8, 0x01#8] = [.tuneRequest g] ++ [.sysex g .sxStart [0x01#8]] ∧
    decodeStream g ([0xF6#8, 0xF0#8, 0x01#8] ++ [0x00#8]) = [.tuneRequest g] ++ [.sysex g .sxStart ([0x01#8] ++ [0x00#8])] := by
  simp only [decodeStream_eq]; exact ⟨rfl, rfl, rfl, rfl⟩
theorem witness_RunningStatusRepeatsTheStatus :
    (0x80#8 ≤ 0x80#8 ∧ 0x80#8 ≤ 0xEF#8) ∧ ¬(0xC0#8 ≤ 0x80#8 ∧ 0x80#8 ≤ 0xDF#8) ∧ ¬(0xC0#8 ≤ 0xEF#8 ∧ 0xEF#8 ≤ 0xDF#8) ∧
    (0xC0#8 ≤ 0xC0#8 ∧ 0xC0#8 ≤ 0xDF#8) ∧ (∀ p ∈ [(0x0D#8, 0x7F#8), (0x00#8, 0x10#8)], isDataByte p.1 ∧ isDataByte p.2) := by
  simp [isDataByte]
/-- Three steps: END, a pull, and its answer; one step: END signalled and no pull answered; and the state before END. -/
theorem witness_ScheduleDoesNotChangeTheEvents :
    Turn.reset ∉ [Turn.finish, .pull] ∧
    Host.Core.run core 3 { State.reset with cfgGroup := 5#8, agenda := [.finish, .pull] } =
      .next { State.reset with cfgGroup := 5#8, ended := true, out := [.exhausted] } ∧
    Host.Core.run core 1 { State.reset with cfgGroup := 5#8, agenda := [.finish, .pull] } =
      .next { State.reset with cfgGroup := 5#8, ended := true, agenda := [.pull] } ∧
    ({ State.reset with cfgGroup := 5#8, agenda := [.finish, .pull] } : State).ended = false := ⟨by decide, rfl, rfl, rfl⟩
theorem witness_SourceTestProperties :
    isDataByte 0x00#8 ∧ isDataByte 0x7F#8 ∧ (∀ b ∈ [0x03#8, 0x7F#8], isDataByte b) ∧ ∀ b ∈ ([] : List Byte), isDataByte b := by
  simp [isDataByte]
end Sys2Proof.Tests
end

section
/-! PROOFS. The state of the machine (10_state.md): the invariant R35 after reset and along every step, the state after reset
(R34), and the frame of the decoder's instructions (R28, R55). Lemmas are about the model's functions; each obligation is a
short use of them. -/

namespace Sys2Proof.Machine

/-! ## The frame of a decoder instruction -/

/-- Every decoder instruction is the one some byte decodes to (R63): `decodeByte` reaches every row of the decoder. -/
theorem exists_decodeByte_of_codec {i : Instr} (h : i.codec = .dec) : ∃ b, decodeByte b = i := by
  cases i with
  | data v => exact ⟨dataField v, by revert v; decide⟩
  | noteOff ch => exact ⟨_, decodeByte_status .noteOff ch⟩
  | noteOn ch => exact ⟨_, decodeByte_status .noteOn ch⟩
  | polyPressure ch => exact ⟨_, decodeByte_status .polyPressure ch⟩
  | controlChange ch => exact ⟨_, decodeByte_status .controlChange ch⟩
  | programChange ch => exact ⟨_, decodeByte_status .programChange ch⟩
  | channelPressure ch => exact ⟨_, decodeByte_status .channelPressure ch⟩
  | pitchBend ch => exact ⟨_, decodeByte_status .pitchBend ch⟩
  | sysexStart => exact ⟨0xF0#8, rfl⟩
  | mtcQuarterFrame => exact ⟨0xF1#8, rfl⟩
  | songPosition => exact ⟨0xF2#8, rfl⟩
  | songSelect => exact ⟨0xF3#8, rfl⟩
  | reservedF4 => exact ⟨0xF4#8, rfl⟩
  | reservedF5 => exact ⟨0xF5#8, rfl⟩
  | tuneRequest => exact ⟨0xF6#8, rfl⟩
  | sysexEnd => exact ⟨0xF7#8, rfl⟩
  | timingClock => exact ⟨0xF8#8, rfl⟩
  | reservedF9 => exact ⟨0xF9#8, rfl⟩
  | rtStart => exact ⟨0xFA#8, rfl⟩
  | rtContinue => exact ⟨0xFB#8, rfl⟩
  | rtStop => exact ⟨0xFC#8, rfl⟩
  | reservedFD => exact ⟨0xFD#8, rfl⟩
  | activeSensing => exact ⟨0xFE#8, rfl⟩
  | rtReset => exact ⟨0xFF#8, rfl⟩
  | _ => cases h

/-- What a decoder instruction can do: it moves the cursor, the slot and the answer, as the move of its byte says. -/
theorem exec_decoder {i : Instr} (h : i.codec = .dec) (s : State) :
    ∃ b, decodeByte b = i ∧ exec i s = .next (applyMove (byteMove s.cfgGroup s.slot b) s) := by
  obtain ⟨b, rfl⟩ := exists_decodeByte_of_codec h
  exact ⟨b, rfl, exec_decodeByte b s⟩

/-! ## What an iteration does to a good state -/

/-- Only a byte is consumed: EMPTY and END do not move the cursor (R43, R212, R214). -/
theorem exists_byte_of_move_consumes {g : Byte} {slot : Option Builder} {p : Peek} (h : (move g slot p).consumes = true) :
    ∃ b, p = .byte b := by
  cases p with
  | byte b => exact ⟨b, rfl⟩
  | empty => cases h
  | ended => simp [move] at h

/-- Where `Peek()` answers a byte of a good state, the cursor is inside the source. -/
theorem pos_lt_of_peek_byte {s : State} (h : Inv s) {b : Byte} (hp : peek s = .byte b) : s.pos < s.src.bytes.length := by
  unfold peek at hp
  rw [read_of_inv h] at hp
  split at hp
  · next hb => exact (List.getElem?_eq_some_iff.1 hb).1
  · split at hp <;> cases hp

/-- The slot and the answer of an iteration on a good slot are good, whatever `Peek()` answers (R35, R101). -/
theorem move_ok (g : Byte) (slot : Option Builder) (p : Peek) (hB : ∀ B, slot = some B → B.ok = true) :
    (∀ B, (move g slot p).slot = some B → B.ok = true) ∧
      ∀ e, (move g slot p).reply = some (.event e) → e.emittedBy g = true := by
  cases p with
  | byte b => exact byteMove_ok g slot b hB
  | empty => exact ⟨hB, by simp [move]⟩
  | ended => exact ⟨by simp [move], endMove_ok g slot hB⟩

/-- A move with a good slot and a good answer, which consumes only inside the source, keeps the invariant. -/
theorem Inv.applyMove {s : State} (h : Inv s) {m : Move} (hslot : ∀ B, m.slot = some B → B.ok = true)
    (hreply : ∀ e, m.reply = some (.event e) → e.emittedBy s.cfgGroup = true)
    (hpos : m.consumes = true → s.pos < s.src.bytes.length) : Inv (applyMove m s) where
  slot := hslot
  canonical := h.canonical
  dense := h.dense
  cursor := by
    rw [applyMove_pos]
    split
    · next hc => exact hpos hc
    · exact h.cursor
  events e he := by
    rw [applyMove_out, List.mem_append, Option.mem_toList] at he
    exact he.elim (h.events e) (hreply e)

/-- One iteration of the driving loop keeps the invariant. -/
theorem Inv.iterate {s : State} (h : Inv s) : Inv (Machine.applyMove (move s.cfgGroup s.slot (peek s)) s) := by
  obtain ⟨hslot, hreply⟩ := move_ok s.cfgGroup s.slot (peek s) h.slot
  refine h.applyMove hslot hreply fun hc => ?_
  obtain ⟨b, hb⟩ := exists_byte_of_move_consumes hc
  exact pos_lt_of_peek_byte h hb

/-! ## What the outside world does to a good state -/

/-- The invariant reads the slot, the cursor, the source, the answers and `cfg_group`, and no other field. -/
theorem Inv.congr {s t : State} (h : Inv s) (hslot : t.slot = s.slot) (hpos : t.pos = s.pos) (hsrc : t.src = s.src)
    (hout : t.out = s.out) (hg : t.cfgGroup = s.cfgGroup) : Inv t where
  slot := hslot ▸ h.slot
  canonical := hsrc ▸ h.canonical
  dense := hsrc ▸ h.dense
  cursor := by rw [hpos, hsrc]; exact h.cursor
  events := by rw [hout, hg]; exact h.events

theorem Inv.popTurn {s : State} (h : Inv s) (rest : List Turn) : Inv (popTurn rest s) := h.congr rfl rfl rfl rfl rfl

theorem Inv.beginPull {s : State} (h : Inv s) : Inv (beginPull s) := h.congr rfl rfl rfl rfl rfl

theorem Inv.signalEnd {s : State} (h : Inv s) : Inv (signalEnd s) := h.congr rfl rfl rfl rfl rfl

theorem Inv.deliver {s : State} (h : Inv s) (bytes : List Byte) : Inv (deliver bytes s) := h.congr rfl rfl rfl rfl rfl

/-- The transport's append keeps the invariant: the source grows at its end (R46). -/
theorem Inv.present {s : State} (h : Inv s) (b : Byte) (rest : List Turn) :
    Inv { s with agenda := rest, src := s.src.append b } where
  slot := h.slot
  canonical := Memory.wf_append h.canonical b
  dense := by simp [append_of_inv h]
  cursor := by simpa [append_of_inv h] using Nat.le_succ_of_le h.cursor
  events := h.events

/-- Reset keeps the invariant: no builder, and the cursor at the start of an empty source (R260). -/
theorem Inv.resetDecoder {s : State} (h : Inv s) : Inv (resetDecoder s) where
  slot _ hB := by cases hB
  canonical := rfl
  dense := rfl
  cursor := Nat.le_refl 0
  events := h.events

/-- Every step that answers a next state keeps the invariant. -/
theorem Inv.step {s t : State} (h : Inv s) (hst : step s = .next t) : Inv t := by
  cases step_cases hst with
  | idle rest _ _ next => exact next ▸ h.popTurn rest
  | iterate rest _ _ next => exact next ▸ (h.popTurn rest).iterate
  | pull rest _ _ next => exact next ▸ (h.popTurn rest).beginPull
  | encode rest _ _ bytes _ _ next => exact next ▸ (h.popTurn rest).deliver bytes
  | present rest b _ _ next => exact next ▸ h.present b rest
  | finish rest _ next => exact next ▸ (h.popTurn rest).signalEnd
  | reset rest _ next => exact next ▸ (h.popTurn rest).resetDecoder

/-- The state after reset meets the invariant. -/
theorem Inv.reset : Inv State.reset where
  slot _ hB := by cases hB
  canonical := rfl
  dense := rfl
  cursor := Nat.le_refl 0
  events _ he := by cases he

/-! ## `cfg_group` and the first byte after reset -/

/-- No step writes `cfg_group` (R28, R34). -/
theorem step_cfgGroup {s t : State} (h : step s = .next t) : t.cfgGroup = s.cfgGroup := by
  cases step_cases h with
  | idle _ _ _ next => rw [next, popTurn_cfgGroup]
  | iterate _ _ _ next => rw [next, applyMove_cfgGroup, popTurn_cfgGroup]
  | pull _ _ _ next => rw [next, beginPull_cfgGroup, popTurn_cfgGroup]
  | encode _ _ _ _ _ _ next => rw [next, deliver_cfgGroup, popTurn_cfgGroup]
  | present _ _ _ _ next => rw [next]
  | finish _ _ next => rw [next, signalEnd_cfgGroup, popTurn_cfgGroup]
  | reset _ _ next => rw [next, resetDecoder_cfgGroup, popTurn_cfgGroup]

/-- With no builder in progress a data byte opens a sysex continuation (R150). -/
theorem exec_data_of_slot_none (v : Septet) {s : State} (h : s.slot = none) :
    exec (.data v) s = .next (openContinuation (dataField v) s) := by
  simp [exec, execData, feedOrOpen, h]

/-! ## The obligations -/

/-- Settles O35, by the ways a step can go: an iteration is a move that is good on a good slot and consumes only a byte inside
the source; the other turns write the source by an append or a reset, or no field the invariant reads. -/
theorem stepKeepsTheInvariant : Obligations.StepKeepsTheInvariant := fun _ _ h hst => h.step hst

/-- Settles O29: no way a step can go writes `cfg_group`. -/
theorem stateAfterReset : Obligations.StateAfterReset :=
  ⟨rfl, rfl, rfl, fun _ _ h => step_cfgGroup h, fun v => ⟨_, exec_data_of_slot_none v rfl, rfl⟩⟩

/-- Settles O31: a decoder instruction makes the move of its byte, and a move writes none of these fields. -/
theorem decoderInstructionFrame : Obligations.DecoderInstructionFrame := by
  intro i s h
  obtain ⟨b, -, hx⟩ := exec_decoder h s
  exact ⟨_, hx, fun _ => rfl, rfl, rfl, rfl, rfl, rfl⟩

/-- Settles O34. -/
theorem invariantAfterReset : Obligations.InvariantAfterReset := Inv.reset

end Sys2Proof.Machine
end

section
/-! PROOFS. The byte source and its transactions (20_memory.md): what the turns of the transport and the consumer do (O30), and
that no step but a reset takes anything back (O32). -/

namespace Sys2Proof.Machine

/-! ## The turns of the transport and the consumer -/

section turns
variable {s : State} {rest : List Turn}

/-- Before END a presented byte is appended (R46). -/
theorem step_present {b : Byte} (ha : s.agenda = .present b :: rest) (he : s.ended = false) :
    step s = .next { s with agenda := rest, src := s.src.append b } := by
  simp [step, ha, presentByte, popTurn, he]

/-- After END a presented byte is outside the model (D19, U14). -/
theorem step_present_of_ended {b : Byte} (ha : s.agenda = .present b :: rest) (he : s.ended = true) :
    step s = .refused (.byteAfterEnd b) := by
  simp [step, ha, presentByte, he]

/-- END is signalled (R41). -/
theorem step_finish (ha : s.agenda = .finish :: rest) : step s = .next (signalEnd (popTurn rest s)) := by
  simp [step, ha]

/-- A pull is accepted when none is in progress (R210). -/
theorem step_pull (ha : s.agenda = .pull :: rest) (hp : s.pulling = false) :
    step s = .next (beginPull (popTurn rest s)) := by
  simp [step, ha, hp]

end turns

/-! ## What an append does to the source of a good state -/

section append
variable {s : State} (h : Inv s) (b : Byte)
include h

/-- The transport appends at the index after the last byte presented (R46). -/
theorem next_of_inv : s.src.next = s.src.bytes.length := by
  rw [h.dense, Memory.next_ofBytes, Memory.bytes_ofBytes]

theorem bytes_append_of_inv : (s.src.append b).bytes = s.src.bytes ++ [b] := by
  rw [append_of_inv h, Memory.bytes_ofBytes]

theorem read_append_length_of_inv : (s.src.append b).read s.src.bytes.length = some b := by
  rw [← next_of_inv h, Memory.append, Memory.read_write_same]

theorem read_append_of_ne_length {a : Nat} (ha : a ≠ s.src.bytes.length) : (s.src.append b).read a = s.src.read a := by
  rw [← next_of_inv h] at ha
  exact Memory.read_write_other ha b

end append

/-! ## No step but a reset takes anything back -/

/-- `t` takes back nothing that `s` has: the cursor stays or moves on by one, a presented byte reads as before, END stays, and the
transcripts are extended only (R44, R46, R47). That `cfg_group` stays is `step_cfgGroup`. -/
structure NothingTakenBack (s t : State) : Prop where
  cursor : t.pos = s.pos ∨ t.pos = s.pos + 1
  presented : ∀ a b, s.src.read a = some b → t.src.read a = some b
  ended : s.ended = true → t.ended = true
  answers : ∃ r, t.out = s.out ++ r
  encodings : ∃ r, t.encOut = s.encOut ++ r

namespace NothingTakenBack

theorem refl (s : State) : NothingTakenBack s s :=
  ⟨.inl rfl, fun _ _ => id, id, ⟨[], by simp⟩, ⟨[], by simp⟩⟩

/-- The agenda is none of the fields it speaks of, so the turn may be taken off first. -/
theorem of_popTurn {s t : State} {rest : List Turn} (h : NothingTakenBack (popTurn rest s) t) : NothingTakenBack s t :=
  ⟨h.cursor, h.presented, h.ended, h.answers, h.encodings⟩

/-- An iteration consumes at most one byte and answers at most once. -/
theorem applyMove (m : Move) (s : State) : NothingTakenBack s (applyMove m s) where
  cursor := by
    rw [applyMove_pos]
    split
    · exact .inr rfl
    · exact .inl rfl
  presented _ _ := id
  ended := id
  answers := ⟨_, rfl⟩
  encodings := (refl s).encodings

theorem beginPull (s : State) : NothingTakenBack s (beginPull s) := { refl s with }

theorem signalEnd (s : State) : NothingTakenBack s (signalEnd s) := { refl s with ended := fun _ => rfl }

theorem deliver (bytes : List Byte) (s : State) : NothingTakenBack s (deliver bytes s) :=
  { refl s with encodings := ⟨_, rfl⟩ }

/-- An append goes to an index past every byte presented, where the source is in canonical form. -/
theorem present {s : State} (h : s.src.wf = true) (b : Byte) (rest : List Turn) :
    NothingTakenBack s { s with agenda := rest, src := s.src.append b } :=
  { refl s with presented := fun _ _ hr => Memory.read_append_of_some h hr b }

/-- Every step but a reset takes nothing back. -/
theorem of_step {s t : State} (hwf : s.src.wf = true) (hst : step s = .next t) (hr : s.agenda.head? ≠ some .reset) :
    NothingTakenBack s t := by
  cases step_cases hst with
  | idle rest _ _ next => exact next ▸ of_popTurn (refl _)
  | iterate rest _ _ next => exact next ▸ of_popTurn (applyMove _ _)
  | pull rest _ _ next => exact next ▸ of_popTurn (beginPull _)
  | encode rest _ _ bytes _ _ next => exact next ▸ of_popTurn (deliver bytes _)
  | present rest b _ _ next => exact next ▸ present hwf b rest
  | finish rest _ next => exact next ▸ of_popTurn (signalEnd _)
  | reset rest agenda _ => exact absurd (by rw [agenda]; rfl) hr

end NothingTakenBack

/-! ## The obligations -/

/-- Settles O32, by the ways a step can go: each but reset takes nothing back, an append because it goes past every byte
presented. -/
theorem stepNeverTakesBack : Obligations.StepNeverTakesBack := by
  intro s t hwf hst hr
  obtain ⟨hpos, hread, hended, hout, henc⟩ := NothingTakenBack.of_step hwf hst hr
  exact ⟨hpos, hread, hended, step_cfgGroup hst, hout, henc⟩

/-- Settles O30, by the equation of each turn; an append to the source of a good state goes to the index after its last byte. -/
theorem outsideTransactions : Obligations.OutsideTransactions := by
  refine fun s rest => ⟨fun b ha he hs => ?present, fun b => step_present_of_ended, step_finish, step_pull⟩
  case present =>
    exact ⟨_, step_present ha he, rfl, bytes_append_of_inv hs b, read_append_length_of_inv hs b,
      fun a => read_append_of_ne_length hs b⟩

end Sys2Proof.Machine
end

section
/-! PROOFS. Encodings (30_encoding.md): the map of all 256 byte values (O2), realtime bytes standing inside other messages (O39),
and running status (O40). Claims about streams are inductions over lists, through `decodeStream_eq`. -/

namespace Sys2Proof.Machine

/-! ## The rows of the byte map -/

/-- A data byte is `DATA` with its low seven bits (R60). -/
theorem decodeByte_data {b : Byte} (h : isData b = true) : decodeByte b = .data (b.setWidth 7) := by
  rw [decodeByte, if_pos h, dataValue, BitVec.setWidth_eq_extractLsb' (by decide)]

/-- The sixteen bytes of a kind's row are its nibble followed by the channel (R61). -/
theorem eq_nibble_append_of_row (k : CvKind) {b : Byte} (hlo : k.nibble ++ 0#4 ≤ b) (hhi : b < (k.nibble + 1#4) ++ 0#4) :
    b = k.nibble ++ b.setWidth 4 := by
  revert b; cases k <;> decide

/-- A byte of a kind's row decodes as that kind's status byte of its channel. -/
theorem decodeByte_of_row (k : CvKind) {b : Byte} (hlo : k.nibble ++ 0#4 ≤ b) (hhi : b < (k.nibble + 1#4) ++ 0#4) :
    decodeByte b = decodeByte (k.nibble ++ b.setWidth 4) :=
  congrArg decodeByte (eq_nibble_append_of_row k hlo hhi)

/-! ## Realtime events and the bytes they come from -/

theorem realtimeOf_of_not_isRealtime {b : Byte} (h : isRealtime b = false) : realtimeOf b = none := by
  revert b; decide

theorem isRealtime_of_realtimeOf {b : Byte} {k : RtKind} (h : realtimeOf b = some k) : isRealtime b = true := by
  by_contra hb
  rw [realtimeOf_of_not_isRealtime (Bool.eq_false_iff.2 hb)] at h
  cases h

/-- The bytes that O39 keeps are those outside the realtime range (R62). -/
theorem decide_lt_F8 (b : Byte) : decide (b < 0xF8#8) = !isRealtime b := by
  simp only [isRealtime, ← BitVec.not_le, decide_not]

theorem secondByteEvent_not_realtime (g s : Byte) (d1 : Septet) (b : Byte) : (secondByteEvent g s d1 b).isRealtime = false := by
  unfold secondByteEvent; split <;> rfl

/-- No builder ever yields a realtime event, whatever byte it is fed. -/
theorem feedByte_not_realtime {g b : Byte} {B : Builder} {e : Event}
    (h : (feedMove (feedByte g B b)).reply = some (.event e)) : e.isRealtime = false := by
  cases hd : isData b with
  | true =>
    rw [feedByte_data hd] at h
    rcases B with ⟨s, _ | _ | d1⟩ | ⟨x, d⟩ | (_ | l) | (_ | _) <;> cases h
    case true.cv.two.some.refl => exact secondByteEvent_not_realtime g s d1 b
    all_goals rfl
  | false =>
    rw [feedByte_status hd] at h
    cases B with
    | sx x d => dsimp only at h; split at h <;> cases h <;> rfl
    | _ => cases h

/-- With no builder a byte below 0xF8 yields no event but `TuneRequest`. -/
theorem openMove_not_realtime {g b : Byte} {e : Event} (h : (openMove g b).reply = some (.event e)) : e.isRealtime = false := by
  unfold openMove at h
  split at h
  · cases h
  split at h
  · cases h
  unfold openSystemMove at h
  split at h <;> cases h
  rfl

theorem byteMove_not_realtime {g b : Byte} {slot : Option Builder} {e : Event} (hb : isRealtime b = false)
    (h : (byteMove g slot b).reply = some (.event e)) : e.isRealtime = false := by
  cases slot with
  | none => exact openMove_not_realtime (byteMove_none hb ▸ h)
  | some B => exact feedByte_not_realtime (byteMove_some hb ▸ h)

/-- A byte outside the realtime range yields no realtime event, on its second look neither. -/
theorem takeByte_not_realtime {g b : Byte} (slot : Option Builder) (hb : isRealtime b = false) :
    ∀ e ∈ (takeByte g slot b).2, e.isRealtime = false := by
  intro e he
  have look {slot : Option Builder} (he : e ∈ eventsOf (byteMove g slot b).reply.toList) : e.isRealtime = false :=
    byteMove_not_realtime hb ((mem_eventsOf_reply _ e).1 he)
  unfold takeByte at he
  dsimp only at he
  split at he
  · exact look he
  · exact (List.mem_append.1 he).elim look look

/-- END flushes a sysex fragment or nothing (R214, R215). -/
theorem flush_cases (g : Byte) (slot : Option Builder) : flush g slot = [] ∨ ∃ x d, slot = some (.sx x d) := by
  rcases slot with _ | _ | ⟨x, d⟩ | _ | _
  case some.sx => exact .inr ⟨x, d, rfl⟩
  all_goals exact .inl rfl

theorem flush_not_realtime (g : Byte) (slot : Option Builder) : ∀ e ∈ flush g slot, e.isRealtime = false := by
  obtain h | ⟨x, d, rfl⟩ := flush_cases g slot
  · simp [h]
  · simp [flush, Event.isRealtime]

/-! ## Realtime bytes in a stream -/

/-- A realtime byte puts its event, if it has one, in front of what follows, and leaves no other trace (R69, R141). -/
theorem streamFrom_realtime {g b : Byte} (slot : Option Builder) (hb : isRealtime b = true) (bs : List Byte) :
    streamFrom g slot (b :: bs) = ((realtimeOf b).map (Event.realtime g)).toList ++ streamFrom g slot bs := by
  rw [streamFrom, takeByte_realtime g b slot hb]

/-- Without its realtime bytes a stream has lost its realtime events and no other. -/
theorem streamFrom_filter_not_realtime (g : Byte) (slot : Option Builder) (bytes : List Byte) :
    (streamFrom g slot bytes).filter (fun e => !e.isRealtime) = streamFrom g slot (bytes.filter fun b => !isRealtime b) := by
  induction bytes generalizing slot with
  | nil => exact List.filter_eq_self.2 fun e he => by simp [flush_not_realtime g slot e he]
  | cons b bs ih =>
    cases hb : isRealtime b with
    | true =>
      rw [streamFrom_realtime slot hb, List.filter_append, ih, List.filter_cons_of_neg (by simp [hb])]
      cases realtimeOf b <;> simp [Event.isRealtime]
    | false =>
      have hevents : (takeByte g slot b).2.filter (fun e => !e.isRealtime) = (takeByte g slot b).2 :=
        List.filter_eq_self.2 fun e he => by simp [takeByte_not_realtime slot hb e he]
      rw [List.filter_cons_of_pos (by simp [hb]), streamFrom, List.filter_append, hevents, ih, streamFrom]

/-- The realtime events of a stream are those of its realtime bytes, in order. -/
theorem streamFrom_filter_realtime (g : Byte) (slot : Option Builder) (bytes : List Byte) :
    (streamFrom g slot bytes).filter Event.isRealtime = bytes.filterMap fun b => (realtimeOf b).map (Event.realtime g) := by
  induction bytes generalizing slot with
  | nil => exact List.filter_eq_nil_iff.2 fun e he => by simp [flush_not_realtime g slot e he]
  | cons b bs ih =>
    cases hb : isRealtime b with
    | true =>
      rw [streamFrom_realtime slot hb, List.filter_append, ih]
      rw [List.filterMap_cons]
      cases realtimeOf b <;> rfl
    | false =>
      have hevents : (takeByte g slot b).2.filter Event.isRealtime = [] :=
        List.filter_eq_nil_iff.2 fun e he => by simp [takeByte_not_realtime slot hb e he]
      rw [streamFrom, List.filter_append, hevents, ih]
      simp [realtimeOf_of_not_isRealtime hb]

/-- A data byte more makes a pending sysex fragment that END would flush one byte longer (R188, R191). -/
theorem streamFrom_sysex_data (g : Byte) (x : Bool) (d : List Byte) {a : Byte} (h : isData a = true) :
    streamFrom g (some (.sx x d)) [a] = [.sysex g (openKind x) (d ++ [a])] := by
  rw [streamFrom, takeByte_data g a _ h, feedByte_data h]
  rfl

theorem openKind_cases (x : Bool) : openKind x = .sxStart ∨ openKind x = .sxContinue := by
  cases x
  · exact .inr rfl
  · exact .inl rfl

/-! ## Running status -/

/-- A channel-voice status byte starts its message afresh where no builder is in progress, or one of a channel-voice message
(R151, R181). -/
theorem takeByte_channelVoice {g s : Byte} {k : CvKind} (h : kindOf s = some k) {slot : Option Builder}
    (hslot : slot = none ∨ ∃ s' p, slot = some (.cv s' p)) :
    takeByte g slot s = (some (.cv s (Progress.fresh k.need)), []) := by
  have hr := isRealtime_of_kindOf h
  have hd := isData_of_kindOf h
  have hopen : byteMove g none s = ⟨true, some (.cv s (Progress.fresh k.need)), none⟩ := by
    simp [hr, openMove, hd, h]
  obtain rfl | ⟨s', p, rfl⟩ := hslot
  · simp [takeByte, hopen]
  · simp [takeByte, hopen, hr, hd, feedMove]

section messages
variable {α : Type} {g s : Byte} {k : CvKind} {data : α → List Byte} {event : α → Event} {ms : List α}

/-- Messages of the kind `k` under the status `s`, each with its data bytes and the event it decodes to: the data bytes of one
yield its event and leave the builder as they found it, with the status and no data (R187). -/
def RunningMessages (g s : Byte) (k : CvKind) (data : α → List Byte) (event : α → Event) (ms : List α) : Prop :=
  ∀ m ∈ ms, ∀ rest, streamFrom g (some (.cv s (Progress.fresh k.need))) (data m ++ rest) =
    event m :: streamFrom g (some (.cv s (Progress.fresh k.need))) rest

/-- With the status in the builder the data bytes alone yield the events of all messages (R67). -/
theorem RunningMessages.streamFrom_data (h : RunningMessages g s k data event ms) :
    streamFrom g (some (.cv s (Progress.fresh k.need))) (ms.flatMap data) = ms.map event := by
  induction ms with
  | nil => rfl
  | cons m ms ih =>
    rw [List.flatMap_cons, h m List.mem_cons_self, ih fun m hm => h m (List.mem_cons_of_mem _ hm), List.map_cons]

/-- With the status before each message, the same events. -/
theorem RunningMessages.streamFrom_repeated (h : RunningMessages g s k data event ms) (hk : kindOf s = some k)
    {slot : Option Builder} (hslot : slot = none ∨ ∃ s' p, slot = some (.cv s' p)) :
    streamFrom g slot (ms.flatMap fun m => s :: data m) = ms.map event := by
  induction ms generalizing slot with
  | nil => obtain rfl | ⟨s', p, rfl⟩ := hslot <;> rfl
  | cons m ms ih =>
    rw [List.flatMap_cons, List.cons_append, streamFrom, takeByte_channelVoice hk hslot, h m List.mem_cons_self,
      ih (fun m hm => h m (List.mem_cons_of_mem _ hm)) (.inr ⟨_, _, rfl⟩)]
    rfl

/-- Running status: the status written once, and the status written before each message. -/
theorem RunningMessages.decodeStream_running (h : RunningMessages g s k data event ms) (hk : kindOf s = some k) :
    decodeStream g (s :: ms.flatMap data) = decodeStream g (ms.flatMap fun m => s :: data m) ∧
      decodeStream g (s :: ms.flatMap data) = ms.map event := by
  simp only [decodeStream_eq, h.streamFrom_repeated hk (.inl rfl)]
  rw [streamFrom, takeByte_channelVoice hk (.inl rfl), h.streamFrom_data]
  exact ⟨rfl, rfl⟩

end messages

theorem exists_kindOf_need_one {s : Byte} (h : 0xC0#8 ≤ s ∧ s ≤ 0xDF#8) : ∃ k, kindOf s = some k ∧ k.need = .one := by
  have : kindOf s = some .programChange ∨ kindOf s = some .channelPressure := by revert s; decide
  obtain h | h := this
  · exact ⟨_, h, rfl⟩
  · exact ⟨_, h, rfl⟩

theorem exists_kindOf_need_two {s : Byte} (hlo : 0x80#8 ≤ s) (hhi : s ≤ 0xEF#8) (h : ¬(0xC0#8 ≤ s ∧ s ≤ 0xDF#8)) :
    ∃ k, kindOf s = some k ∧ k.need = .two := by
  have hneed : (kindOf s).map CvKind.need = some .two := by revert s; decide
  exact Option.map_eq_some_iff.1 hneed

theorem highNibble_eq_nine (s : Byte) : highNibble s = 9#4 ↔ s >>> 4 = 9#8 := by
  revert s; decide

/-- The event of a two-data-byte message in the fields of the stream (R185, R186). -/
theorem secondByteEvent_dataValue {a : Byte} (h : isData a = true) (g s b : Byte) :
    secondByteEvent g s (dataValue a) b =
      if s >>> 4 = 9#8 ∧ b = 0#8 then .channelVoice g (0x80#8 ||| (s &&& 0xF#8)) a (some 0x40#8)
      else .channelVoice g s a (some b) := by
  simp only [secondByteEvent, highNibble_eq_nine, dataField_dataValue h]

/-- One data byte completes a one-data-byte message (R183). -/
theorem streamFrom_one {a : Byte} (h : isData a = true) (g s : Byte) (rest : List Byte) :
    streamFrom g (some (.cv s .one)) (a :: rest) = .channelVoice g s a none :: streamFrom g (some (.cv s .one)) rest := by
  rw [streamFrom, takeByte_data g a _ h, feedByte_data h]
  rfl

/-- Two data bytes complete a two-data-byte message (R184, R185). -/
theorem streamFrom_two {a b : Byte} (ha : isData a = true) (hb : isData b = true) (g s : Byte) (rest : List Byte) :
    streamFrom g (some (.cv s (.two none))) (a :: b :: rest) =
      secondByteEvent g s (dataValue a) b :: streamFrom g (some (.cv s (.two none))) rest := by
  rw [streamFrom, takeByte_data g a _ ha, feedByte_data ha]
  simp only [takeChannelVoice, feedMove]
  rw [streamFrom, takeByte_data g b _ hb, feedByte_data hb]
  rfl

/-! ## The obligations -/

/-- Settles O39: a realtime byte leaves the slot alone and no other byte or END yields a realtime event; `due` is what END
flushes from the slot that `xs` leaves. -/
theorem realtimeBytesAreTransparent : Obligations.RealtimeBytesAreTransparent := by
  unfold Obligations.RealtimeBytesAreTransparent
  simp only [decodeStream_eq, decide_lt_F8]
  refine fun g => ⟨streamFrom_filter_not_realtime g none, streamFrom_filter_realtime g none, fun xs => ?inserted⟩
  case inserted =>
    obtain ⟨before, slot, hxs⟩ := streamFrom_append g xs none
    have hdue : streamFrom g none xs = before ++ flush g slot := by simpa [streamFrom] using hxs []
    refine ⟨before, flush g slot, hdue, ?_, fun ys => ⟨streamFrom g slot ys, hxs ys, fun b k hk => ?_⟩⟩
    · obtain h | ⟨x, d, rfl⟩ := flush_cases g slot
      · exact .inl h
      · exact .inr ⟨openKind x, d, openKind_cases x, rfl, by rw [hxs, streamFrom_sysex_data g x d rfl]⟩
    · rw [hxs, streamFrom_realtime slot (isRealtime_of_realtimeOf hk), hk]
      rfl

/-- Settles O40: the builder keeps its status after a message, and a repeated status byte puts the same builder back. -/
theorem runningStatusRepeatsTheStatus : Obligations.RunningStatusRepeatsTheStatus := by
  intro g s hlo hhi
  refine ⟨fun htwo pairs hdata => ?two, fun hone ds hdata => ?one⟩
  case two =>
    obtain ⟨k, hk, hneed⟩ := exists_kindOf_need_two hlo hhi htwo
    refine RunningMessages.decodeStream_running (k := k) (fun p hp rest => ?_) hk
    obtain ⟨h1, h2⟩ := hdata p hp
    rw [← secondByteEvent_dataValue (decide_eq_true h1), hneed]
    exact streamFrom_two (decide_eq_true h1) (decide_eq_true h2) g s rest
  case one =>
    obtain ⟨k, hk, hneed⟩ := exists_kindOf_need_one hone
    have hmessages : RunningMessages g s k (fun d => [d]) (fun d => .channelVoice g s d none) ds := fun d hd rest => by
      rw [hneed]
      exact streamFrom_one (decide_eq_true (hdata d hd)) g s rest
    simpa using hmessages.decodeStream_running hk

/-- Settles O2, row by row: the data bytes, the seven channel-voice rows and the sixteen system bytes. -/
theorem byteValueMapIsTotal : Obligations.ByteValueMapIsTotal := by
  intro b
  refine ⟨fun h => decodeByte_data (decide_eq_true h),
    fun hlo hhi => (decodeByte_of_row .noteOff hlo hhi).trans (decodeByte_status .noteOff _),
    fun hlo hhi => (decodeByte_of_row .noteOn hlo hhi).trans (decodeByte_status .noteOn _),
    fun hlo hhi => (decodeByte_of_row .polyPressure hlo hhi).trans (decodeByte_status .polyPressure _),
    fun hlo hhi => (decodeByte_of_row .controlChange hlo hhi).trans (decodeByte_status .controlChange _),
    fun hlo hhi => (decodeByte_of_row .programChange hlo hhi).trans (decodeByte_status .programChange _),
    fun hlo hhi => (decodeByte_of_row .channelPressure hlo hhi).trans (decodeByte_status .channelPressure _),
    fun hlo hhi => (decodeByte_of_row .pitchBend hlo hhi).trans (decodeByte_status .pitchBend _), ?system⟩
  case system => refine ⟨?_, ?_, ?_, ?_, ?_, ?_, ?_, ?_, ?_, ?_, ?_, ?_, ?_, ?_, ?_, ?_⟩ <;> rintro rfl <;> rfl

end Sys2Proof.Machine
end

section
/-! PROOFS. The Event Model (40_event_model.md): the kind of a status byte (O3), the status byte of a kind and a channel (O4), and
what every event of a decoded stream satisfies (O37). -/

namespace Sys2Proof.Machine
open Sys2Proof.Stated

/-! ## A status byte and its two nibbles -/

@[simp] theorem highNibble_append (n ch : Nibble) : highNibble (n ++ ch) = n :=
  BitVec.extractLsb'_append_eq_left

theorem highNibble_append_lowNibble (b : Byte) : highNibble b ++ lowNibble b = b := by
  revert b; decide

/-- The source's `b >> 4` is the high nibble carried in a byte (R7). -/
theorem ushiftRight_four (b : Byte) : b >>> 4 = (highNibble b).setWidth 8 := by
  revert b; decide

/-- The source's `b & 0xF` is the low nibble carried in a byte (R7). -/
theorem and_0F (b : Byte) : b &&& 0xF#8 = channelField (lowNibble b) := by
  revert b; decide

theorem highNibble_eq_iff {b : Byte} {n : Nibble} : highNibble b = n ↔ b >>> 4 = n.setWidth 8 := by
  rw [ushiftRight_four]
  exact ⟨congrArg _, fun h => by simpa using congrArg (BitVec.setWidth 4) h⟩

/-! ## `kindOf` (R99) -/

/-- A kind is answered exactly on its nibble. -/
theorem kindOf_eq_some_iff {s : Byte} {k : CvKind} : kindOf s = some k ↔ highNibble s = k.nibble := by
  constructor
  · intro h
    rw [← status_of_kindOf h, highNibble_append]
  · intro h
    rw [← highNibble_append_lowNibble s, h, kindOf_status]

theorem kindOf_eq_some_iff_ushiftRight {s : Byte} {k : CvKind} : kindOf s = some k ↔ s >>> 4 = k.nibble.setWidth 8 :=
  kindOf_eq_some_iff.trans highNibble_eq_iff

/-- "Unknown" is answered exactly outside the seven channel-voice rows. -/
theorem kindOf_eq_none_iff {s : Byte} : kindOf s = none ↔ s < 0x80#8 ∨ 0xF0#8 ≤ s := by
  revert s; decide

theorem exists_kindOf_iff {s : Byte} : (∃ k, kindOf s = some k) ↔ 0x80#8 ≤ s ∧ s ≤ 0xEF#8 := by
  rw [← Option.ne_none_iff_exists', ne_eq, kindOf_eq_none_iff]
  bv_omega

/-- The two kinds with one data byte are those of the rows 0xC0 and 0xD0 (R98). -/
theorem need_eq_one_iff {s : Byte} {k : CvKind} (h : kindOf s = some k) : k.need = .one ↔ 0xC0#8 ≤ s ∧ s ≤ 0xDF#8 := by
  revert s; cases k <;> decide

theorem kindOf_eq_noteOn_iff {s : Byte} : kindOf s = some .noteOn ↔ 0x90#8 ≤ s ∧ s ≤ 0x9F#8 := by
  revert s; decide

/-! ## `status(kind, ch)` (R100) -/

/-- Only the low four bits of the channel argument are used. -/
theorem status_and_0F (k : CvKind) (ch : Byte) : status k (ch &&& 0xF#8) = status k ch := by
  rw [status, BitVec.and_assoc, BitVec.and_self, status]

/-- The formula of R100 is the pattern of R61: the kind's nibble, then the channel. -/
theorem status_eq_append (k : CvKind) (ch : Byte) : status k ch = k.nibble ++ lowNibble ch := by
  rw [← status_and_0F, and_0F, status_channelField]

@[simp] theorem kindOf_status_eq (k : CvKind) (ch : Byte) : kindOf (status k ch) = some k := by
  rw [status_eq_append, kindOf_status]

theorem status_channel (k : CvKind) (ch : Byte) : status k ch &&& 0xF#8 = ch &&& 0xF#8 := by
  rw [and_0F, and_0F, status_eq_append, lowNibble_append]

/-- A status byte is the status of its kind and its channel. -/
theorem status_kindOf {s : Byte} {k : CvKind} (h : kindOf s = some k) : status k (s &&& 0xF#8) = s := by
  rw [status_and_0F, status_eq_append, status_of_kindOf h]

/-! ## What an emitted event is (R101, R104) -/

theorem isData_iff {b : Byte} : isData b = true ↔ isDataByte b := decide_eq_true_iff

theorem emittedBy_iff {g : Byte} {e : Event} :
    e.emittedBy g = true ↔ e.valid = true ∧ e.emittable = true ∧ e.group = g := by
  simp only [Event.emittedBy, Bool.and_eq_true, beq_iff_eq, and_assoc]

/-- A valid channel-voice event has a known kind, and `data2` exactly where its kind has it (R104). -/
theorem valid_channelVoice {g s a : Byte} {d2 : Option Byte} (h : (Event.channelVoice g s a d2).valid = true) :
    ∃ k, kindOf s = some k ∧ isDataByte a ∧ (k.need = .one → d2 = none) ∧
      (k.need ≠ .one → ∃ d, d2 = some d ∧ isDataByte d) := by
  cases hk : kindOf s with
  | none => simp [Event.valid, hk] at h
  | some k =>
    simp only [Event.valid, hk, Bool.and_eq_true] at h
    obtain ⟨ha, hd⟩ := h
    refine ⟨k, rfl, isData_iff.1 ha, ?_⟩
    cases hn : k.need with
    | one =>
      cases d2 with
      | none => exact ⟨fun _ => rfl, fun hne => absurd rfl hne⟩
      | some d => simp [hn] at hd
    | two =>
      cases d2 with
      | none => simp [hn] at hd
      | some d => exact ⟨nofun, fun _ => ⟨d, rfl, isData_iff.1 (by simpa [hn] using hd)⟩⟩

/-- An emitted noteOn has a velocity (R101, R186). -/
theorem velocity_ne_zero_of_emittable {g s a : Byte} {d2 : Option Byte} (h : (Event.channelVoice g s a d2).emittable = true)
    (hk : kindOf s = some .noteOn) : d2 ≠ some 0#8 := by
  rintro rfl
  simp [Event.emittable, hk] at h

/-- An emitted sysex fragment that no 0xF0 began has data (R101). -/
theorem data_ne_nil_of_emittable {g : Byte} {k : SysexKind} {d : List Byte} (h : (Event.sysex g k d).emittable = true)
    (hk : k = .sxContinue ∨ k = .sxEnd) : d ≠ [] := by
  rintro rfl
  obtain rfl | rfl := hk <;> cases h

/-! ## Every event of a stream is an emitted one -/

theorem flush_emittedBy {g : Byte} {slot : Option Builder} (hslot : ∀ B, slot = some B → B.ok = true) :
    ∀ e ∈ flush g slot, e.emittedBy g = true := by
  intro e he
  rw [← flush_endMove, mem_eventsOf_reply] at he
  exact endMove_ok g slot hslot e he

/-- From a good slot every byte leaves a good slot and yields good events, and so does END. -/
theorem streamFrom_emittedBy {g : Byte} {slot : Option Builder} (hslot : ∀ B, slot = some B → B.ok = true)
    (bytes : List Byte) : ∀ e ∈ streamFrom g slot bytes, e.emittedBy g = true := by
  induction bytes generalizing slot with
  | nil => exact flush_emittedBy hslot
  | cons b bs ih =>
    obtain ⟨hnext, hevents⟩ := takeByte_ok g slot b hslot
    intro e he
    rw [streamFrom, List.mem_append] at he
    exact he.elim (hevents e) (ih hnext e)

theorem decodeStream_emittedBy {g : Byte} {bytes : List Byte} {e : Event} (h : e ∈ decodeStream g bytes) :
    e.emittedBy g = true := by
  rw [decodeStream_eq] at h
  exact streamFrom_emittedBy (fun _ hB => by cases hB) bytes e h

/-! ## The obligations -/

/-- Settles O37: every byte keeps the builder good and yields good events only, by induction over the bytes; what a good event is,
variant by variant. -/
theorem decodedEventsAreWellFormed : Obligations.DecodedEventsAreWellFormed := by
  refine ⟨fun g bytes e he => ?events, fun g => ⟨[0xF0#8], ?emptyStart⟩, fun g => ⟨[0xF0#8, 0xF7#8], ?emptyComplete⟩⟩
  case events =>
    obtain ⟨hvalid, hemit, hgroup⟩ := emittedBy_iff.1 (decodeStream_emittedBy he)
    refine ⟨hgroup, ?_⟩
    cases e with
    | channelVoice _ s a d2 =>
      obtain ⟨k, hk, ha, hone, htwo⟩ := valid_channelVoice hvalid
      obtain ⟨hlo, hhi⟩ := exists_kindOf_iff.1 ⟨k, hk⟩
      rw [need_eq_one_iff hk] at hone
      rw [ne_eq, need_eq_one_iff hk] at htwo
      exact ⟨hlo, hhi, ha, hone, htwo, fun ⟨h9lo, h9hi, h0⟩ =>
        velocity_ne_zero_of_emittable hemit (kindOf_eq_noteOn_iff.2 ⟨h9lo, h9hi⟩) h0⟩
    | quarterFrame _ v => exact isData_iff.1 hvalid
    | songPosition _ l m => exact ((Bool.and_eq_true _ _).mp hvalid).imp isData_iff.1 isData_iff.1
    | songSelect _ n => exact isData_iff.1 hvalid
    | tuneRequest _ => trivial
    | sysex _ k d => exact ⟨fun b hb => isData_iff.1 (List.all_eq_true.1 hvalid b hb), data_ne_nil_of_emittable hemit⟩
    | realtime _ _ => trivial
  case emptyStart => rw [decodeStream_eq]; exact List.mem_singleton.2 rfl
  case emptyComplete => rw [decodeStream_eq]; exact List.mem_singleton.2 rfl

/-- Settles O4: the formula is the definition at each kind, and the rest follows from its form as two nibbles. -/
theorem statusOfKindAndChannel : Obligations.StatusOfKindAndChannel := by
  refine ⟨fun ch => ⟨rfl, rfl, rfl, rfl, rfl, rfl, rfl⟩, rfl, fun k ch => ?back, fun s hlo hhi => ?onto⟩
  case back =>
    obtain ⟨hlo, hhi⟩ := exists_kindOf_iff.1 ⟨k, kindOf_status_eq k ch⟩
    exact ⟨status_and_0F k ch, hlo, hhi, kindOf_status_eq k ch, status_channel k ch⟩
  case onto =>
    obtain ⟨k, hk⟩ := exists_kindOf_iff.2 ⟨hlo, hhi⟩
    exact ⟨k, hk, status_kindOf hk⟩

/-- Settles O3. -/
theorem kindOfReadsTheHighNibble : Obligations.KindOfReadsTheHighNibble := fun _ =>
  ⟨kindOf_eq_some_iff_ushiftRight, kindOf_eq_some_iff_ushiftRight, kindOf_eq_some_iff_ushiftRight,
    kindOf_eq_some_iff_ushiftRight, kindOf_eq_some_iff_ushiftRight, kindOf_eq_some_iff_ushiftRight,
    kindOf_eq_some_iff_ushiftRight, kindOf_eq_none_iff⟩

end Sys2Proof.Machine
end

section
/-! PROOFS. The Byte Encoder (41_encoder.md): what each operation hands over (O13 to O17), which operation an event selects and
what an encode turn does with it (O18, O19, O43), and which steps are refused (O33). -/

namespace Sys2Proof.Machine
open Sys2Proof.Stated

/-! ## The operations -/

/-- The meaning of a two-data-byte kind writes the status by the formula of R100, its encoding by the pattern of R61. -/
theorem encodeCv2_eq (k : CvKind) (ch : Nibble) (a b : Byte) (s : State) :
    encodeCv2 k ch a b s = .next (deliver [k.nibble ++ ch, a, b] s) := by
  rw [encodeCv2, status_channelField]

/-- The same for a one-data-byte kind. -/
theorem encodeCv1_eq (k : CvKind) (ch : Nibble) (a : Byte) (s : State) :
    encodeCv1 k ch a s = .next (deliver [k.nibble ++ ch, a] s) := by
  rw [encodeCv1, status_channelField]

/-- Every encoder operation, in every state, hands over its encoding and writes nothing else (R110, R111). -/
theorem exec_encode {i : Instr} (h : i.codec = .enc) (s : State) : exec i s = .next (deliver (encode i) s) := by
  cases i with
  | encNoteOff ch a b => exact encodeCv2_eq .noteOff ch a b s
  | encNoteOn ch a b => exact encodeCv2_eq .noteOn ch a b s
  | encPolyPressure ch a b => exact encodeCv2_eq .polyPressure ch a b s
  | encControlChange ch a b => exact encodeCv2_eq .controlChange ch a b s
  | encProgramChange ch a => exact encodeCv1_eq .programChange ch a s
  | encChannelPressure ch a => exact encodeCv1_eq .channelPressure ch a s
  | encPitchBend ch a b => exact encodeCv2_eq .pitchBend ch a b s
  | encMtcQuarterFrame | encSongPosition | encSongSelect | encTuneRequest => rfl
  | encSysexComplete | encSysexStart | encSysexContinue | encSysexEnd => rfl
  | encTimingClock | encRtStart | encRtContinue | encRtStop | encActiveSensing | encRtReset => rfl
  | _ => cases h

/-! ## The operation an event selects (R112, R136) -/

section selection
variable {st : Byte} {k : CvKind} (g a : Byte) (d2 : Option Byte)

theorem selectOperation_of_unknown (hk : kindOf st = none) :
    selectOperation (.channelVoice g st a d2) = .error (.encoderUnknownKind st) := by
  simp only [selectOperation, hk]

/-- A one-data-byte kind selects an operation that writes status and `data1`, whether `data2` is there or not (R117, R118). -/
theorem selectOperation_of_need_one (hk : kindOf st = some k) (hn : k.need = .one) :
    ∃ i, selectOperation (.channelVoice g st a d2) = .ok i ∧ encode i = [st, a] := by
  have hst : [k.nibble ++ lowNibble st, a] = [st, a] := by rw [status_of_kindOf hk]
  cases k with
  | programChange => exact ⟨.encProgramChange (lowNibble st) a, by simp only [selectOperation, hk], hst⟩
  | channelPressure => exact ⟨.encChannelPressure (lowNibble st) a, by simp only [selectOperation, hk], hst⟩
  | _ => cases hn

/-- A two-data-byte kind selects, where there is `data2`, an operation that writes status, `data1` and `data2` (R112). -/
theorem selectOperation_of_need_two (hk : kindOf st = some k) (hn : k.need = .two) :
    ∃ op, selectOperation (.channelVoice g st a d2) = withData2 st d2 op ∧ ∀ b, encode (op b) = [st, a, b] := by
  have hst (b : Byte) : [k.nibble ++ lowNibble st, a, b] = [st, a, b] := by rw [status_of_kindOf hk]
  cases k with
  | noteOff => exact ⟨.encNoteOff (lowNibble st) a, by simp only [selectOperation, hk], hst⟩
  | noteOn => exact ⟨.encNoteOn (lowNibble st) a, by simp only [selectOperation, hk], hst⟩
  | polyPressure => exact ⟨.encPolyPressure (lowNibble st) a, by simp only [selectOperation, hk], hst⟩
  | controlChange => exact ⟨.encControlChange (lowNibble st) a, by simp only [selectOperation, hk], hst⟩
  | pitchBend => exact ⟨.encPitchBend (lowNibble st) a, by simp only [selectOperation, hk], hst⟩
  | _ => cases hn

theorem selectOperation_of_no_data2 (hk : kindOf st = some k) (hn : k.need = .two) :
    selectOperation (.channelVoice g st a none) = .error (.encoderNoData2 st) := by
  obtain ⟨op, hsel, -⟩ := selectOperation_of_need_two g a none hk hn
  exact hsel

end selection

/-- The events outside the encoder's domain: channel voice of an unknown kind, or of a two-data-byte kind without `data2`
(R136). -/
theorem selectOperation_error {e : Event} {r : Refusal} (h : selectOperation e = .error r) :
    ∃ g st a d2, e = .channelVoice g st a d2 ∧
      ((kindOf st = none ∧ r = .encoderUnknownKind st) ∨
        (∃ k, kindOf st = some k ∧ k.need = .two ∧ d2 = none ∧ r = .encoderNoData2 st)) := by
  cases e with
  | channelVoice g st a d2 =>
    refine ⟨g, st, a, d2, rfl, ?_⟩
    cases hk : kindOf st with
    | none =>
      rw [selectOperation_of_unknown g a d2 hk] at h
      cases h
      exact .inl ⟨rfl, rfl⟩
    | some k =>
      cases hn : k.need with
      | one =>
        obtain ⟨i, hsel, -⟩ := selectOperation_of_need_one g a d2 hk hn
        rw [hsel] at h
        cases h
      | two =>
        obtain ⟨op, hsel, -⟩ := selectOperation_of_need_two g a d2 hk hn
        rw [hsel] at h
        cases d2 with
        | none => cases h; exact .inr ⟨k, rfl, hn, rfl, rfl⟩
        | some b => cases h
  | sysex g k d => cases k <;> cases h
  | realtime g k => cases k <;> cases h
  | _ => cases h

/-- The selection does not read `group` (R137). -/
theorem selectOperation_withGroup (e : Event) (g : Byte) : selectOperation (e.withGroup g) = selectOperation e := by
  cases e with
  | sysex g' k d => cases k <;> rfl
  | realtime g' k => cases k <;> rfl
  | _ => rfl

/-! ## The encode turn -/

section turn
variable {s : State} {rest : List Turn} {e : Event}

theorem step_encode (ha : s.agenda = .encode e :: rest) : step s = encoderTurn e (popTurn rest s) := by
  simp only [step, ha]

/-- An event that selects no operation is refused, with the reason of the selection (R136). -/
theorem step_encode_of_error {r : Refusal} (hr : selectOperation e = .error r) (ha : s.agenda = .encode e :: rest) :
    step s = .refused r := by
  rw [step_encode ha, encoderTurn, hr]

/-- An event that selects an operation has that operation's encoding handed over. -/
theorem encodesTo_of_selectOperation {i : Instr} (hi : selectOperation e = .ok i) : encodesTo e (encode i) := by
  intro s rest ha
  rw [step_encode ha, encoderTurn, hi]
  exact exec_encode (codec_of_selectOperation hi) _

end turn

theorem encodesTo_of_need_one {st : Byte} {k : CvKind} (hk : kindOf st = some k) (hn : k.need = .one) (g a : Byte)
    (d2 : Option Byte) : encodesTo (.channelVoice g st a d2) [st, a] := by
  obtain ⟨i, hi, hbytes⟩ := selectOperation_of_need_one g a d2 hk hn
  exact hbytes ▸ encodesTo_of_selectOperation hi

theorem encodesTo_of_need_two {st : Byte} {k : CvKind} (hk : kindOf st = some k) (hn : k.need = .two) (g a b : Byte) :
    encodesTo (.channelVoice g st a (some b)) [st, a, b] := by
  obtain ⟨op, hop, hbytes⟩ := selectOperation_of_need_two g a (some b) hk hn
  exact hbytes b ▸ encodesTo_of_selectOperation hop

/-! ## The refused steps -/

/-- No turn of the decoder is refused: every iteration answers a next state (R230). -/
theorem decoderTurn_ne_refused (s : State) (r : Refusal) : decoderTurn s ≠ .refused r := by
  unfold decoderTurn
  split
  · rw [iterate_eq]; exact nofun
  · exact nofun

/-- A refused step is a byte presented after END or an encode turn whose event selects no operation. -/
theorem step_refused {s : State} {r : Refusal} (h : step s = .refused r) :
    (∃ b rest, s.agenda = .present b :: rest ∧ s.ended = true ∧ r = .byteAfterEnd b) ∨
      (∃ e rest, s.agenda = .encode e :: rest ∧ selectOperation e = .error r) := by
  cases ha : s.agenda with
  | nil => simp only [step, ha] at h; exact absurd h (decoderTurn_ne_refused s r)
  | cons turn rest =>
    cases turn with
    | present b =>
      cases he : s.ended with
      | false => rw [step_present ha he] at h; cases h
      | true => rw [step_present_of_ended ha he] at h; cases h; exact .inl ⟨b, rest, rfl, rfl, rfl⟩
    | finish => rw [step_finish ha] at h; cases h
    | pull =>
      cases hp : s.pulling with
      | false => rw [step_pull ha hp] at h; cases h
      | true => simp only [step, ha, hp, if_true, iterate_eq] at h; cases h
    | reset => simp only [step, ha] at h; cases h
    | encode e =>
      refine .inr ⟨e, rest, rfl, ?_⟩
      cases hsel : selectOperation e with
      | ok i => rw [encodesTo_of_selectOperation hsel s rest ha] at h; cases h
      | error r' => rw [step_encode_of_error hsel ha] at h; cases h; rfl
    | iterate => simp only [step, ha] at h; exact absurd h (decoderTurn_ne_refused _ r)

/-! ## The obligations -/

/-- Settles O17: the meaning of each operation writes the pattern of its row. -/
theorem encoderOperationIsItsEncoding : Obligations.EncoderOperationIsItsEncoding := fun _ s h => exec_encode h s

/-- Settles O18: the range of the status byte gives its kind and the kind's count of data bytes, and with them the selection. -/
theorem encodeTurnByTheKindOfStatus : Obligations.EncodeTurnByTheKindOfStatus := by
  refine fun s rest g st a d2 ha => ⟨fun h => ?unknown, fun hlo hhi => ?one, fun h => ?two⟩
  case unknown => exact step_encode_of_error (selectOperation_of_unknown g a d2 (kindOf_eq_none_iff.2 h)) ha
  case one =>
    obtain ⟨k, hk, hn⟩ := exists_kindOf_need_one (s := st) (by bv_omega)
    exact encodesTo_of_need_one hk hn g a d2 s rest ha
  case two =>
    obtain ⟨k, hk, hn⟩ := exists_kindOf_need_two (s := st) (by bv_omega) (by bv_omega) (by bv_omega)
    constructor
    · rintro b rfl
      exact encodesTo_of_need_two hk hn g a b s rest ha
    · rintro rfl
      exact step_encode_of_error (selectOperation_of_no_data2 g a hk hn) ha

/-- Settles O33, by the turn: only the transport's append and the encoder's selection refuse, each in its own case. -/
theorem refusedOnlyOutsideTheDomain : Obligations.RefusedOnlyOutsideTheDomain := by
  intro s r h
  obtain hbyte | ⟨e, rest, ha, hsel⟩ := step_refused h
  · exact .inl hbyte
  · obtain ⟨g, st, a, d2, rfl, hcase⟩ := selectOperation_error hsel
    exact .inr ⟨g, st, a, d2, rest, ha, hcase⟩

/-- Settles O13: each is the encoding of its row. -/
theorem encodeChannelVoice : Obligations.EncodeChannelVoice := fun s _ _ _ =>
  ⟨exec_encode rfl s, exec_encode rfl s, exec_encode rfl s, exec_encode rfl s, exec_encode rfl s, exec_encode rfl s,
    exec_encode rfl s⟩

/-- Settles O14: each is the encoding of its row. -/
theorem encodeSystemCommon : Obligations.EncodeSystemCommon := fun s _ _ _ _ =>
  ⟨exec_encode rfl s, exec_encode rfl s, exec_encode rfl s, exec_encode rfl s⟩

/-- Settles O15: each is the encoding of its row. -/
theorem encodeSysex : Obligations.EncodeSysex := fun s _ =>
  ⟨exec_encode rfl s, exec_encode rfl s, exec_encode rfl s, exec_encode rfl s⟩

/-- Settles O16: each is the encoding of its row. (`encodeRealtime` alone is the name of the model's function.) -/
theorem Encoder.encodeRealtime : Obligations.EncodeRealtime := fun s =>
  ⟨exec_encode rfl s, exec_encode rfl s, exec_encode rfl s, exec_encode rfl s, exec_encode rfl s, exec_encode rfl s⟩

/-- Settles O19: an encode turn reads of its event only the operation it selects, and the selection does not read `group`. -/
theorem groupDoesNotReachTheWire : Obligations.GroupDoesNotReachTheWire := by
  intro s rest e g
  rw [step_encode rfl, step_encode rfl, encoderTurn, encoderTurn, selectOperation_withGroup]
  rfl

/-- Settles O43: each event selects its row, and the row's encoding is the bytes named. -/
theorem encodeTurnOfTheOtherVariants : Obligations.EncodeTurnOfTheOtherVariants := fun s rest _ =>
  ⟨fun v => encodesTo_of_selectOperation (i := .encMtcQuarterFrame v) rfl s rest,
    fun l m => encodesTo_of_selectOperation (i := .encSongPosition l m) rfl s rest,
    fun n => encodesTo_of_selectOperation (i := .encSongSelect n) rfl s rest,
    encodesTo_of_selectOperation (i := .encTuneRequest) rfl s rest,
    fun d => encodesTo_of_selectOperation (i := .encSysexComplete d) rfl s rest,
    fun d => encodesTo_of_selectOperation (i := .encSysexStart d) rfl s rest,
    fun d => encodesTo_of_selectOperation (i := .encSysexContinue d) rfl s rest,
    fun d => encodesTo_of_selectOperation (i := .encSysexEnd d) rfl s rest,
    encodesTo_of_selectOperation (i := .encTimingClock) rfl s rest,
    encodesTo_of_selectOperation (i := .encRtStart) rfl s rest,
    encodesTo_of_selectOperation (i := .encRtContinue) rfl s rest,
    encodesTo_of_selectOperation (i := .encRtStop) rfl s rest,
    encodesTo_of_selectOperation (i := .encActiveSensing) rfl s rest,
    encodesTo_of_selectOperation (i := .encRtReset) rfl s rest⟩

end Sys2Proof.Machine
end

section
/-! PROOFS. What a byte of each class does to the builder slot (42_decoder_classify.md): realtime bytes (O7), channel-voice status
bytes (O8), system-common bytes (O9), 0xF7 (O10) and data bytes (O11). The two ways of `feedOrOpen` come first: with no builder
the byte opens, with one in progress it is fed. -/

namespace Sys2Proof.Machine
open Sys2Proof.Stated

section feedOrOpen
variable {s : State} {B : Builder} {b : Byte} {opening : State → State}

/-- With no builder in progress a byte does what its own class says (R140). -/
theorem feedOrOpen_of_slot_none (hs : s.slot = none) : feedOrOpen opening b s = .next (opening s) := by
  simp only [feedOrOpen, hs]

/-- With a builder in progress the byte is fed to it (R140, R167). -/
theorem feedOrOpen_of_slot_some (hs : s.slot = some B) :
    feedOrOpen opening b s = .next (applyFeed (feedByte s.cfgGroup B b) s) := by
  simp only [feedOrOpen, hs, feed]

/-- A byte that is neither data nor the builder's terminator ends the builder and is not consumed (R181, R190, R194, R197). -/
theorem applyFeed_feedByte_interrupts (hd : isData b = false) (hterm : ¬(b = 0xF7#8 ∧ ∃ x d, B = .sx x d)) :
    applyFeed (feedByte s.cfgGroup B b) s = interruptedState s B := by
  rw [feedByte_status hd]
  cases B with
  | sx x d =>
    have h7 : b ≠ 0xF7#8 := fun h7 => hterm ⟨h7, x, d, rfl⟩
    dsimp only
    rw [if_neg h7]
    rfl
  | cv st p => rfl
  | sp lsb => rfl
  | sc w => rfl

theorem feedOrOpen_interrupts (hs : s.slot = some B) (hd : isData b = false)
    (hterm : ¬(b = 0xF7#8 ∧ ∃ x d, B = .sx x d)) : feedOrOpen opening b s = .next (interruptedState s B) := by
  rw [feedOrOpen_of_slot_some hs, applyFeed_feedByte_interrupts hd hterm]

/-- A status byte other than 0xF7 is the terminator of no builder. -/
theorem feedOrOpen_interrupts_of_ne (hs : s.slot = some B) (hd : isData b = false) (h7 : b ≠ 0xF7#8) :
    feedOrOpen opening b s = .next (interruptedState s B) :=
  feedOrOpen_interrupts hs hd fun h => h7 h.1

end feedOrOpen

/-! ## Realtime bytes (R141) -/

/-- A byte of the realtime table is consumed and its event emitted; the slot is not looked at. -/
theorem realtimeByte_of_some {b : Byte} {k : RtKind} (h : realtimeOf b = some k) (s : State) :
    realtimeByte b s = .next (emit (.realtime s.cfgGroup k) (consume s)) := by
  simp only [realtimeByte, h]

/-- A reserved realtime byte is only consumed. -/
theorem realtimeByte_of_none {b : Byte} (h : realtimeOf b = none) (s : State) : realtimeByte b s = .next (consume s) := by
  simp only [realtimeByte, h, dropByte]

/-! ## Channel-voice status bytes (R151) -/

section channelVoice
variable {s : State} (k : CvKind) (ch : Nibble)

theorem status_ne_sysexEnd : (k.nibble ++ ch : Byte) ≠ 0xF7#8 := by
  intro h
  have hk := kindOf_status k ch
  rw [h] at hk
  cases hk

/-- With no builder the byte opens a channel-voice builder with the count of its kind and no data. -/
theorem channelVoiceByte_of_slot_none (hs : s.slot = none) :
    channelVoiceByte k ch s = .next (openBuilder (.cv (k.nibble ++ ch) (Progress.fresh k.need)) s) := by
  rw [channelVoiceByte, status_channelField, feedOrOpen_of_slot_none hs, openChannelVoice, kindOf_status]
  rfl

/-- With a builder in progress the byte ends it: a status byte of a channel-voice kind terminates nothing. -/
theorem channelVoiceByte_interrupts {B : Builder} (hs : s.slot = some B) :
    channelVoiceByte k ch s = .next (interruptedState s B) := by
  rw [channelVoiceByte, status_channelField]
  exact feedOrOpen_interrupts_of_ne hs (isData_status k ch) (status_ne_sysexEnd k ch)

end channelVoice

/-! ## 0xF7 (R166, R189) -/

/-- 0xF7 with a sysex builder: the fragment ends and is emitted, its kind by whether it had the start opcode (R189). -/
theorem exec_sysexEnd_of_sx {s : State} {x : Bool} {d : List Byte} (hs : s.slot = some (.sx x d)) :
    exec .sysexEnd s = .next (emit (.sysex s.cfgGroup (closedKind x) d) (setSlot none (consume s))) :=
  feedOrOpen_of_slot_some (b := 0xF7#8) hs

/-- 0xF7 ends a builder of another kind as any status byte does (R166). -/
theorem exec_sysexEnd_interrupts {s : State} {B : Builder} (hs : s.slot = some B) (hB : ∀ x d, B ≠ .sx x d) :
    exec .sysexEnd s = .next (interruptedState s B) :=
  feedOrOpen_interrupts (b := 0xF7#8) hs rfl fun ⟨_, x, d, h⟩ => hB x d h

/-! ## Data bytes (R150) -/

theorem isData_dataField (v : Septet) : isData (dataField v) = true := by
  revert v; decide

@[simp] theorem dataValue_dataField (v : Septet) : dataValue (dataField v) = v := by
  revert v; decide

theorem dataField_eq_zero_iff {v : Septet} : dataField v = 0#8 ↔ v = 0#7 := by
  revert v; decide

/-- With a builder in progress a data byte is fed to it. -/
theorem exec_data_of_slot_some (v : Septet) {s : State} {B : Builder} (hs : s.slot = some B) :
    exec (.data v) s = .next (applyFeed (feedByte s.cfgGroup B (dataField v)) s) :=
  feedOrOpen_of_slot_some hs

/-- The condition of the zero-velocity rule, in the fields of the byte `st >> 4` and the data value (R186). -/
theorem zero_velocity_iff {st : Byte} {v : Septet} :
    (highNibble st = 0x9#4 ∧ dataField v = 0x00#8) ↔ (st >>> 4 = 9#8 ∧ v = 0#7) :=
  and_congr (highNibble_eq_nine st) dataField_eq_zero_iff

/-- Writing what the slot holds already changes nothing. -/
theorem setSlot_of_slot_eq {s : State} {slot : Option Builder} (h : s.slot = slot) : setSlot slot s = s := by
  rw [← h]; rfl

/-! ## The obligations -/

/-- Settles O7: the six bytes of the realtime table are emitted, the other two of the range are not in it. -/
theorem realtimeByteInEverySlot : Obligations.RealtimeByteInEverySlot := fun s =>
  ⟨⟨rfl, realtimeByte_of_some (b := 0xF8#8) rfl s⟩, ⟨rfl, realtimeByte_of_none (b := 0xF9#8) rfl s⟩,
    ⟨rfl, realtimeByte_of_some (b := 0xFA#8) rfl s⟩, ⟨rfl, realtimeByte_of_some (b := 0xFB#8) rfl s⟩,
    ⟨rfl, realtimeByte_of_some (b := 0xFC#8) rfl s⟩, ⟨rfl, realtimeByte_of_none (b := 0xFD#8) rfl s⟩,
    ⟨rfl, realtimeByte_of_some (b := 0xFE#8) rfl s⟩, ⟨rfl, realtimeByte_of_some (b := 0xFF#8) rfl s⟩⟩

/-- Settles O8: the seven instructions are one rule, in the kind. -/
theorem channelVoiceStatusByte : Obligations.ChannelVoiceStatusByte := by
  refine fun s ch => ⟨fun hs => ?opens, fun B hs => ?interrupts⟩
  case opens =>
    exact ⟨channelVoiceByte_of_slot_none .noteOff ch hs, channelVoiceByte_of_slot_none .noteOn ch hs,
      channelVoiceByte_of_slot_none .polyPressure ch hs, channelVoiceByte_of_slot_none .controlChange ch hs,
      channelVoiceByte_of_slot_none .programChange ch hs, channelVoiceByte_of_slot_none .channelPressure ch hs,
      channelVoiceByte_of_slot_none .pitchBend ch hs⟩
  case interrupts =>
    exact ⟨channelVoiceByte_interrupts .noteOff ch hs, channelVoiceByte_interrupts .noteOn ch hs,
      channelVoiceByte_interrupts .polyPressure ch hs, channelVoiceByte_interrupts .controlChange ch hs,
      channelVoiceByte_interrupts .programChange ch hs, channelVoiceByte_interrupts .channelPressure ch hs,
      channelVoiceByte_interrupts .pitchBend ch hs⟩

/-- Settles O9: with no builder each byte does what its class says; with one, none of the seven is a terminator. -/
theorem systemCommonByte : Obligations.SystemCommonByte := by
  refine fun s => ⟨fun hs => ?opens, fun B hs => ?interrupts⟩
  case opens =>
    exact ⟨feedOrOpen_of_slot_none hs, feedOrOpen_of_slot_none hs, feedOrOpen_of_slot_none hs, feedOrOpen_of_slot_none hs,
      feedOrOpen_of_slot_none hs, feedOrOpen_of_slot_none hs, feedOrOpen_of_slot_none hs⟩
  case interrupts =>
    exact ⟨feedOrOpen_interrupts_of_ne (b := 0xF0#8) hs rfl (by decide),
      feedOrOpen_interrupts_of_ne (b := 0xF1#8) hs rfl (by decide),
      feedOrOpen_interrupts_of_ne (b := 0xF2#8) hs rfl (by decide),
      feedOrOpen_interrupts_of_ne (b := 0xF3#8) hs rfl (by decide),
      feedOrOpen_interrupts_of_ne (b := 0xF4#8) hs rfl (by decide),
      feedOrOpen_interrupts_of_ne (b := 0xF5#8) hs rfl (by decide),
      feedOrOpen_interrupts_of_ne (b := 0xF6#8) hs rfl (by decide)⟩

/-- Settles O10: only a sysex builder has 0xF7 for its terminator. -/
theorem sysexEndByte : Obligations.SysexEndByte := fun _ =>
  ⟨feedOrOpen_of_slot_none, fun _ _ hs => exec_sysexEnd_of_sx hs, fun _ _ hs => exec_sysexEnd_interrupts hs nofun,
    fun _ hs => exec_sysexEnd_interrupts hs nofun, fun _ hs => exec_sysexEnd_interrupts hs nofun⟩

/-- Settles O11: with no builder the byte opens a continuation; with one it is fed, and each builder takes it in its own way. -/
theorem dataByteInEverySlot : Obligations.DataByteInEverySlot := by
  intro s v
  refine ⟨fun hs => exec_data_of_slot_none v hs, fun st hs => ?one, fun st hs => ?first, fun st d1 hs hv => ?asGiven,
    fun st d1 hs hv => ?zeroVelocity, fun x d hs => ?appended, fun hs => ?lsb, fun l hs => ?msb, fun hs => ?quarterFrame,
    fun hs => ?songSelect⟩
  all_goals rw [exec_data_of_slot_some v hs, feedByte_data (isData_dataField v)]
  case one => simp only [takeChannelVoice, applyFeed]; rw [setSlot_of_slot_eq (s := consume s) hs]; rfl
  case first => simp only [takeChannelVoice, dataValue_dataField]; rfl
  case asGiven => simp only [takeChannelVoice, secondByteEvent, zero_velocity_iff, if_neg hv]; rfl
  case zeroVelocity => simp only [takeChannelVoice, secondByteEvent, zero_velocity_iff, if_pos hv]; rfl
  case lsb => simp only [takeSongPosition, dataValue_dataField]; rfl
  all_goals rfl

end Sys2Proof.Machine
end

section
/-! PROOFS. A status byte that interrupts the builder in progress (43_decoder_builders.md R181, R190, R194, R197): what it does to
the state and which condition it raises (60_exceptions.md R231, R233) (O12). -/

namespace Sys2Proof.Machine
open Sys2Proof.Stated

section interrupts
variable {s : State} {B : Builder} {b : Byte}

theorem isData_eq_false_iff : isData b = false ↔ 0x80#8 ≤ b := by
  rw [isData, decide_eq_false_iff_not, BitVec.not_lt]

theorem isRealtime_eq_false_iff : isRealtime b = false ↔ b ≤ 0xF7#8 := by
  rw [isRealtime, decide_eq_false_iff_not]
  bv_omega

/-- The instruction of a byte below 0xF8, with a builder in progress, feeds the byte to it (R140, R167). -/
theorem exec_decodeByte_of_slot_some (hs : s.slot = some B) (hr : isRealtime b = false) :
    exec (decodeByte b) s = .next (applyFeed (feedByte s.cfgGroup B b) s) := by
  rw [exec_decodeByte, hs, byteMove_some hr, applyFeed_eq]

@[simp] theorem interruptedState_slot : (interruptedState s B).slot = none := by
  cases B <;> rfl

/-- The interrupting byte is not consumed, so the next iteration meets it again (R181, R190, R239). -/
@[simp] theorem peek_interruptedState : peek (interruptedState s B) = peek s := by
  cases B <;> rfl

/-- The condition of a byte below 0xF8, with a builder in progress, is that of feeding it (R237). -/
theorem raised_byte_of_slot_some {done : Bool} (hr : isRealtime b = false) :
    raised (some B) (.byte b) done = raisedByFeed B b done := by
  simp only [raised, hr, Bool.false_eq_true, if_false]

end interrupts

/-! ## The obligation -/

/-- Settles O12: the byte is neither data nor realtime, so it is fed to the builder, whose answer and condition depend only on its
form; a sysex builder has 0xF7 alone for its terminator. -/
theorem statusByteInterruptsTheBuilder : Obligations.StatusByteInterruptsTheBuilder := by
  intro s b B done hs hlo hhi hterm
  have hd : isData b = false := isData_eq_false_iff.2 hlo
  have hr : isRealtime b = false := isRealtime_eq_false_iff.2 hhi
  refine ⟨?next, interruptedState_slot, peek_interruptedState, ?condition⟩
  case next => rw [exec_decodeByte_of_slot_some hs hr, applyFeed_feedByte_interrupts hd hterm]
  case condition =>
    rw [hs, raised_byte_of_slot_some hr]
    unfold raisedByFeed
    rw [hd, if_neg Bool.false_ne_true]
    cases B with
    | cv st p => rcases p with _ | ⟨_ | d1⟩ <;> rfl
    | sx x d => exact if_neg fun h7 => hterm ⟨h7, x, d, rfl⟩
    | sp lsb => rfl
    | sc w => rfl

end Sys2Proof.Machine
end

section
/-! PROOFS. Encoding and decoding again (44_decoder_loop.md R225): what comes back of every valid event (O38). The encoder's side is
`encodesTo_of_selectOperation`; the decoder's is `streamFrom` from an empty slot, one lemma per shape of output. -/

namespace Sys2Proof.Machine
open Sys2Proof.Stated

/-! ## Output patterns read from the wire -/

section wire
variable {g : Byte}

/-- A first byte that only opens a builder leaves the rest to that builder. -/
theorem streamFrom_opens {b : Byte} {B : Builder} (h : takeByte g none b = (some B, [])) (bs : List Byte) :
    streamFrom g none (b :: bs) = streamFrom g (some B) bs := by
  rw [streamFrom, h, List.nil_append]

/-- A data byte is fed to the builder, which yields at most one event (R183 to R196). -/
theorem streamFrom_feeds {a : Byte} (h : isData a = true) (B : Builder) (bs : List Byte) :
    streamFrom g (some B) (a :: bs) =
      eventsOf (feedMove (feedByte g B a)).reply.toList ++ streamFrom g (feedMove (feedByte g B a)).slot bs := by
  rw [streamFrom, takeByte_data g a B h]

theorem streamFrom_quarterFrame {v : Byte} (h : isData v = true) :
    streamFrom g none [0xF1#8, v] = [.quarterFrame g v] := by
  rw [streamFrom_opens (B := .sc .qf) rfl, streamFrom_feeds h, feedByte_data h]
  rfl

theorem streamFrom_songSelect {n : Byte} (h : isData n = true) : streamFrom g none [0xF3#8, n] = [.songSelect g n] := by
  rw [streamFrom_opens (B := .sc .ss) rfl, streamFrom_feeds h, feedByte_data h]
  rfl

theorem streamFrom_songPosition {l m : Byte} (hl : isData l = true) (hm : isData m = true) :
    streamFrom g none [0xF2#8, l, m] = [.songPosition g l m] := by
  rw [streamFrom_opens (B := .sp none) rfl, streamFrom_feeds hl, feedByte_data hl]
  simp only [takeSongPosition, feedMove]
  rw [streamFrom_feeds hm, feedByte_data hm]
  simp only [takeSongPosition, feedMove, dataField_dataValue hl]
  rfl

theorem streamFrom_realtimeCode (k : RtKind) : streamFrom g none [k.code] = [.realtime g k] := by
  cases k <;> rfl

/-- A sysex builder collects the data bytes it meets (R188). -/
theorem streamFrom_sysex_append {d : List Byte} (h : d.all isData = true) (x : Bool) (acc rest : List Byte) :
    streamFrom g (some (.sx x acc)) (d ++ rest) = streamFrom g (some (.sx x (acc ++ d))) rest := by
  induction d generalizing acc with
  | nil => simp
  | cons a d ih =>
    obtain ⟨ha, hd⟩ := (Bool.and_eq_true _ _).mp h
    have hfed : streamFrom g (some (.sx x acc)) (a :: (d ++ rest)) = streamFrom g (some (.sx x (acc ++ [a]))) (d ++ rest) := by
      rw [streamFrom_feeds ha, feedByte_data ha]
      rfl
    rw [List.cons_append, hfed, ih hd, List.append_assoc, List.singleton_append]

/-- Data bytes that no 0xF7 follows are flushed by END (R191, R215). -/
theorem streamFrom_sysex_open {d : List Byte} (h : d.all isData = true) (x : Bool) (acc : List Byte) :
    streamFrom g (some (.sx x acc)) d = [.sysex g (openKind x) (acc ++ d)] := by
  have := streamFrom_sysex_append (g := g) h x acc []
  rwa [List.append_nil] at this

/-- Data bytes that 0xF7 follows are a closed fragment (R189). -/
theorem streamFrom_sysex_closed {d : List Byte} (h : d.all isData = true) (x : Bool) (acc : List Byte) :
    streamFrom g (some (.sx x acc)) (d ++ [0xF7#8]) = [.sysex g (closedKind x) (acc ++ d)] := by
  rw [streamFrom_sysex_append h]
  rfl

/-- The first data byte of a fragment without 0xF0 opens a continuation (R150). -/
theorem streamFrom_opensContinuation {a : Byte} (h : isData a = true) (bs : List Byte) :
    streamFrom g none (a :: bs) = streamFrom g (some (.sx false [a])) bs := by
  refine streamFrom_opens ?_ bs
  simp [takeByte, isRealtime_of_isData h, openMove, h]

/-- A channel-voice message with one data byte. -/
theorem streamFrom_channelVoice_one {st a : Byte} {k : CvKind} (hk : kindOf st = some k) (hn : k.need = .one)
    (ha : isData a = true) : streamFrom g none [st, a] = [.channelVoice g st a none] := by
  rw [streamFrom_opens (takeByte_channelVoice hk (.inl rfl)), hn]
  exact streamFrom_one ha g st []

/-- A channel-voice message with two data bytes, the zero-velocity note-on included. -/
theorem streamFrom_channelVoice_two {st a b : Byte} {k : CvKind} (hk : kindOf st = some k) (hn : k.need = .two)
    (ha : isData a = true) (hb : isData b = true) :
    streamFrom g none [st, a, b] = survivors (.channelVoice g st a (some b)) := by
  rw [streamFrom_opens (takeByte_channelVoice hk (.inl rfl)), hn, Progress.fresh, streamFrom_two ha hb,
    secondByteEvent_dataValue ha, survivors]
  split <;> rfl

end wire

/-! ## The round trip, variant by variant (R225) -/

/-- The encoder hands over bytes for `e` from which a decoder of group `g` yields the survivors of `e`. -/
def RoundTrips (g : Byte) (e : Event) : Prop := ∃ bytes, encodesTo e bytes ∧ streamFrom g none bytes = survivors e

theorem RoundTrips.of_selectOperation {g : Byte} {e : Event} {i : Instr} (hi : selectOperation e = .ok i)
    (h : streamFrom g none (encode i) = survivors e) : RoundTrips g e :=
  ⟨encode i, encodesTo_of_selectOperation hi, h⟩

theorem roundTrips_channelVoice {g st a : Byte} {d2 : Option Byte} (h : (Event.channelVoice g st a d2).valid = true) :
    RoundTrips g (.channelVoice g st a d2) := by
  obtain ⟨k, hk, ha, hone, htwo⟩ := valid_channelVoice h
  cases hn : k.need with
  | one =>
    obtain rfl := hone hn
    exact ⟨_, encodesTo_of_need_one hk hn g a none, streamFrom_channelVoice_one hk hn (isData_iff.2 ha)⟩
  | two =>
    obtain ⟨d, rfl, hd⟩ := htwo (by rw [hn]; exact nofun)
    exact ⟨_, encodesTo_of_need_two hk hn g a d,
      streamFrom_channelVoice_two hk hn (isData_iff.2 ha) (isData_iff.2 hd)⟩

/-- The four sysex kinds: with 0xF0 in front the builder is there before the data; without it the first data byte opens it, and
where there is none nothing comes back. -/
theorem roundTrips_sysex {g : Byte} {k : SysexKind} {d : List Byte} (h : d.all isData = true) :
    RoundTrips g (.sysex g k d) := by
  cases k with
  | sxComplete =>
    refine .of_selectOperation (i := .encSysexComplete d) rfl ?_
    exact (streamFrom_opens (B := .sx true []) rfl _).trans (streamFrom_sysex_closed h true [])
  | sxStart =>
    refine .of_selectOperation (i := .encSysexStart d) rfl ?_
    exact (streamFrom_opens (B := .sx true []) rfl _).trans (streamFrom_sysex_open h true [])
  | sxContinue =>
    refine .of_selectOperation (i := .encSysexContinue d) rfl ?_
    cases d with
    | nil => rfl
    | cons a d =>
      obtain ⟨ha, hd⟩ := (Bool.and_eq_true _ _).mp h
      exact (streamFrom_opensContinuation ha d).trans (streamFrom_sysex_open hd false [a])
  | sxEnd =>
    refine .of_selectOperation (i := .encSysexEnd d) rfl ?_
    cases d with
    | nil => rfl
    | cons a d =>
      obtain ⟨ha, hd⟩ := (Bool.and_eq_true _ _).mp h
      exact (streamFrom_opensContinuation ha _).trans (streamFrom_sysex_closed hd false [a])

theorem selectOperation_realtime (g : Byte) (k : RtKind) :
    ∃ i, selectOperation (.realtime g k) = .ok i ∧ encode i = [k.code] := by
  cases k <;> exact ⟨_, rfl, rfl⟩

theorem roundTrips_of_valid {e : Event} (h : e.valid = true) : RoundTrips e.group e := by
  cases e with
  | channelVoice g st a d2 => exact roundTrips_channelVoice h
  | quarterFrame g v => exact .of_selectOperation (i := .encMtcQuarterFrame v) rfl (streamFrom_quarterFrame h)
  | songPosition g l m =>
    obtain ⟨hl, hm⟩ := (Bool.and_eq_true _ _).mp h
    exact .of_selectOperation (i := .encSongPosition l m) rfl (streamFrom_songPosition hl hm)
  | songSelect g n => exact .of_selectOperation (i := .encSongSelect n) rfl (streamFrom_songSelect h)
  | tuneRequest g => exact .of_selectOperation (i := .encTuneRequest) rfl rfl
  | sysex g k d => exact roundTrips_sysex h
  | realtime g k =>
    obtain ⟨i, hi, hbytes⟩ := selectOperation_realtime g k
    exact .of_selectOperation hi (hbytes ▸ streamFrom_realtimeCode k)

/-! ## The obligation -/

/-- Settles O38, by the variants of a valid event. Two reserved bytes decode to the same nothing; a sysex start and a continuation
written one after the other are read as one start. -/
theorem roundTripOfEveryValidEvent : Obligations.RoundTripOfEveryValidEvent := by
  unfold Obligations.RoundTripOfEveryValidEvent
  simp only [decodeStream_eq]
  refine ⟨?roundTrip, fun g => ⟨[0xF4#8], [0xF5#8], by decide, rfl⟩, fun g => ?joined⟩
  case roundTrip =>
    rintro _ e hvalid rfl
    exact roundTrips_of_valid hvalid
  case joined =>
    refine ⟨.sysex g .sxStart [0x01#8], .sysex g .sxContinue [0x02#8], [0xF0#8, 0x01#8], [0x02#8], rfl, rfl, rfl, rfl,
      encodesTo_of_selectOperation (i := .encSysexStart [0x01#8]) rfl,
      encodesTo_of_selectOperation (i := .encSysexContinue [0x02#8]) rfl, rfl, rfl, ?_⟩
    have hjoined : streamFrom g none [0xF0#8, 0x01#8, 0x02#8] = [.sysex g .sxStart [0x01#8, 0x02#8]] := rfl
    rw [List.cons_append, List.singleton_append, hjoined]
    exact nofun

end Sys2Proof.Machine
end

section
/-! PROOFS. The driving loop (44_decoder_loop.md): the decoder's turn (O20), EMPTY (O21), END (O22), the transition table (O23), the
cursor law (O24) and the one answer of an iteration (O25). All go through `iterate_eq`: an iteration is its `move`. -/

namespace Sys2Proof.Machine
open Sys2Proof.Stated

/-! ## The decoder's turn (R210, R211) -/

section turn
variable {s : State} {rest : List Turn}

theorem popTurn_of_agenda_eq (h : s.agenda = rest) : popTurn rest s = s := by
  rw [← h]; rfl

/-- In all its forms the decoder's turn is one, over the agenda that is left. -/
theorem step_of_decoderHasTurn (h : decoderHasTurn s rest) : step s = decoderTurn (popTurn rest s) := by
  obtain ⟨ha, rfl⟩ | ha | ⟨hp, ⟨later, ha⟩, hrest⟩ := h
  · rw [popTurn_of_agenda_eq ha]
    simp only [step, ha]
  · simp only [step, ha]
  · rw [popTurn_of_agenda_eq hrest.symm]
    simp only [step, ha, decoderTurn, hp, if_true]

/-- With a pull in progress the turn is one iteration. -/
theorem step_of_pulling (hp : s.pulling = true) (h : decoderHasTurn s rest) : step s = iterate (popTurn rest s) := by
  rw [step_of_decoderHasTurn h, decoderTurn, popTurn_pulling, if_pos hp]

/-- Between pulls the turn does nothing. -/
theorem step_of_not_pulling (hp : s.pulling = false) (h : decoderHasTurn s rest) : step s = .next (popTurn rest s) := by
  rw [step_of_decoderHasTurn h, decoderTurn, popTurn_pulling, hp, if_neg Bool.false_ne_true]

end turn

/-! ## The answers of `Peek()` (R41, R42) -/

section peek
variable {s : State}

theorem peek_of_read {b : Byte} (h : s.src.read s.pos = some b) : peek s = .byte b := by
  simp only [peek, h]

theorem peek_of_empty (h : s.src.read s.pos = none) (he : s.ended = false) : peek s = .empty := by
  simp only [peek, h, he, Bool.false_eq_true, if_false]

theorem peek_of_ended (h : s.src.read s.pos = none) (he : s.ended = true) : peek s = .ended := by
  simp only [peek, h, he, if_true]

theorem iterate_of_byte {b : Byte} (h : peek s = .byte b) : iterate s = exec (decodeByte b) s := by
  simp only [iterate, h]

theorem iterate_of_empty (h : peek s = .empty) : iterate s = .next (answer .pending s) := by
  simp only [iterate, h, atEmpty]

theorem iterate_of_ended (h : peek s = .ended) : iterate s = .next (applyMove (endMove s.cfgGroup s.slot) s) := by
  simp only [iterate, h, atEnd_eq]

end peek

/-- What END does with a slot that holds no sysex builder: EXHAUSTED (R214, R215). -/
theorem endMove_of_ne_sx (g : Byte) {slot : Option Builder} (h : ∀ x d, slot ≠ some (.sx x d)) :
    endMove g slot = ⟨false, none, some .exhausted⟩ := by
  unfold endMove
  split
  · next x d => exact absurd rfl (h x d)
  · rfl

/-- `PENDING` is the answer to EMPTY alone (R212). -/
theorem eq_empty_of_reply_pending {g : Byte} {slot : Option Builder} {p : Peek}
    (h : (move g slot p).reply = some .pending) : p = .empty := by
  cases p with
  | empty => rfl
  | byte b =>
    obtain hr | ⟨e, hr⟩ := reply_of_byteMove g slot b <;> rw [move, hr] at h <;> cases h
  | ended =>
    simp only [move, endMove] at h
    split at h <;> cases h

/-! ## The transition table (R223) -/

section table
variable {g b : Byte}

/-- The realtime table R105 is the columns `F8` to `FF`. -/
theorem realtimeColumn_eq (g b : Byte) : realtimeColumn g b = (realtimeOf b).map fun k => .event (.realtime g k) := by
  have hcode : realtimeOf b =
      if b = 0xF8#8 then some .timingClock else if b = 0xFA#8 then some .rtStart else if b = 0xFB#8 then some .rtContinue
      else if b = 0xFC#8 then some .rtStop else if b = 0xFE#8 then some .activeSensing
      else if b = 0xFF#8 then some .rtReset else none := by
    revert b; decide
  rw [hcode, realtimeColumn]
  split_ifs <;> rfl

theorem freshProgress_eq {k : CvKind} (h : kindOf b = some k) : freshProgress b = Progress.fresh k.need := by
  simp only [freshProgress, ← need_eq_one_iff h]
  cases k <;> rfl

/-- The row `NONE`: no builder in progress. -/
theorem openMove_eq_noneRow (hr : isRealtime b = false) : openMove g b = ⟨true, (noneRow g b).1, (noneRow g b).2⟩ := by
  unfold openMove
  cases hd : isData b with
  | true =>
    have hlt : b < 0x80#8 := of_decide_eq_true hd
    simp only [noneRow, hlt, if_true]
  | false =>
    have hge : ¬b < 0x80#8 := of_decide_eq_false hd
    rw [if_neg Bool.false_ne_true]
    cases hk : kindOf b with
    | some k =>
      have hlt : b < 0xF0#8 := by
        have := exists_kindOf_iff.1 ⟨k, hk⟩
        bv_omega
      simp only [noneRow, hge, hlt, if_true, if_false, freshProgress_eq hk]
    | none =>
      have hcode : b = 0xF0#8 ∨ b = 0xF1#8 ∨ b = 0xF2#8 ∨ b = 0xF3#8 ∨ b = 0xF4#8 ∨ b = 0xF5#8 ∨ b = 0xF6#8 ∨
          b = 0xF7#8 := by
        revert b; decide
      obtain rfl | rfl | rfl | rfl | rfl | rfl | rfl | rfl := hcode <;> rfl

/-- The column `00..7F`: a data byte, with a builder in progress. -/
theorem feedMove_eq_dataColumn (hd : isData b = true) (B : Builder) :
    feedMove (feedByte g B b) = ⟨true, (dataColumn g b B).1, (dataColumn g b B).2⟩ := by
  have hv : dataValue b = b.setWidth 7 := (BitVec.setWidth_eq_extractLsb' (by decide)).symm
  rw [feedByte_data hd]
  cases B with
  | cv st p =>
    rcases p with _ | ⟨_ | d1⟩
    case two.some =>
      simp only [takeChannelVoice, secondByteEvent, highNibble_eq_nine, feedMove, dataColumn]
      rfl
    all_goals simp only [takeChannelVoice, feedMove, dataColumn, hv]
  | sx x d => rfl
  | sp l =>
    cases l with
    | none => simp only [takeSongPosition, feedMove, dataColumn, hv]
    | some l => rfl
  | sc w => cases w <;> rfl

/-- The column `F7` at the rows of a sysex builder: its terminator. -/
theorem feedMove_terminator (x : Bool) (d : List Byte) :
    feedMove (feedByte g (.sx x d) 0xF7#8) = ⟨true, none, some (.event (.sysex g (closedKind x) d))⟩ := rfl

/-- The columns `80..F7` otherwise: the builder is lost and the byte stays. -/
theorem feedMove_eq_lostColumn {B : Builder} (hd : isData b = false) (hterm : ¬(b = 0xF7#8 ∧ ∃ x d, B = .sx x d)) :
    feedMove (feedByte g B b) = ⟨false, none, lostColumn g B⟩ := by
  rw [feedByte_status hd]
  cases B with
  | sx x d =>
    have h7 : b ≠ 0xF7#8 := fun h7 => hterm ⟨h7, x, d, rfl⟩
    dsimp only
    rw [if_neg h7]
    cases x <;> rfl
  | cv st p => rfl
  | sp l => rfl
  | sc w => rfl

/-- The column `END`. -/
theorem table_ended (g : Byte) (slot : Option Builder) : table g slot .ended = (0, none, (endMove g slot).reply) := by
  rcases slot with _ | _ | ⟨_ | _, d⟩ | _ | _ <;> rfl

/-- The table is the move: how far the cursor goes, the new slot and the answer. -/
theorem table_eq_move (g : Byte) (slot : Option Builder) (p : Peek) :
    table g slot p = ((move g slot p).consumes.toNat, (move g slot p).slot, (move g slot p).reply) := by
  cases p with
  | empty => rfl
  | ended => rw [table_ended, move, endMove_consumes, endMove_slot]; rfl
  | byte b =>
    cases hr : isRealtime b with
    | true =>
      have hge : 0xF8#8 ≤ b := of_decide_eq_true hr
      simp only [table, hge, if_true, move, byteMove_realtime hr, realtimeColumn_eq, Bool.toNat_true]
    | false =>
      have hlt : ¬0xF8#8 ≤ b := of_decide_eq_false hr
      cases slot with
      | none => simp only [table, hlt, if_false, move, byteMove_none hr, openMove_eq_noneRow hr, Bool.toNat_true]
      | some B =>
        simp only [table, hlt, if_false, move, byteMove_some hr]
        cases hd : isData b with
        | true =>
          have hlt : b < 0x80#8 := of_decide_eq_true hd
          rw [if_pos hlt, feedMove_eq_dataColumn hd]
          rfl
        | false =>
          have hge : ¬b < 0x80#8 := of_decide_eq_false hd
          rw [if_neg hge]
          by_cases hterm : b = 0xF7#8 ∧ ∃ x d, B = .sx x d
          · obtain ⟨rfl, x, d, rfl⟩ := hterm
            rw [feedMove_terminator]
            cases x <;> rfl
          · rw [feedMove_eq_lostColumn hd hterm]
            split_ifs with h7
            · cases B with
              | sx x d => exact absurd ⟨h7, x, d, rfl⟩ hterm
              | _ => rfl
            · rfl

end table

/-! ## The cursor law (R216) -/

/-- Where the cursor advances by one is where the byte's move consumes. -/
theorem advances_iff {g b : Byte} {slot : Option Builder} : advances slot b ↔ (byteMove g slot b).consumes = true := by
  unfold advances
  cases hr : isRealtime b with
  | true => simp [byteMove_realtime hr, show 0xF8#8 ≤ b from of_decide_eq_true hr]
  | false =>
    have hlt : ¬0xF8#8 ≤ b := of_decide_eq_false hr
    cases slot with
    | none => simp [consumes_of_none]
    | some B =>
      rw [byteMove_some hr]
      cases hd : isData b with
      | true => simp [feedMove_data_consumes B hd, show b < 0x80#8 from of_decide_eq_true hd]
      | false =>
        have hge : ¬b < 0x80#8 := of_decide_eq_false hd
        by_cases hterm : b = 0xF7#8 ∧ ∃ x d, B = .sx x d
        · obtain ⟨rfl, x, d, rfl⟩ := hterm
          simp [feedMove_terminator]
        · simpa [feedMove_eq_lostColumn hd hterm, hlt, hge] using hterm

/-- A byte that is not consumed is met again by the next iteration, with no builder (R216, R239). -/
theorem peek_applyMove_of_not_consumes {m : Move} (h : m.consumes = false) (s : State) : peek (applyMove m s) = peek s :=
  peek_congr (by simp [h]) rfl rfl

/-! ## The answer of an iteration (R213) -/

section group
variable {g b : Byte} {e : Event}

theorem group_secondByteEvent (g st : Byte) (d1 : Septet) (b : Byte) : (secondByteEvent g st d1 b).group = g := by
  unfold secondByteEvent; split <;> rfl

theorem group_of_feedByte {B : Builder} (h : (feedMove (feedByte g B b)).reply = some (.event e)) : e.group = g := by
  cases hd : isData b with
  | true =>
    rw [feedByte_data hd] at h
    rcases B with ⟨st, _ | _ | d1⟩ | ⟨x, d⟩ | (_ | l) | (_ | _) <;> cases h
    case cv.two.some.refl => exact group_secondByteEvent g st d1 b
    all_goals rfl
  | false =>
    rw [feedByte_status hd] at h
    cases B with
    | sx x d => dsimp only at h; split at h <;> cases h <;> rfl
    | _ => cases h

/-- With no builder the only event of a byte below 0xF8 is `TuneRequest`. -/
theorem eq_tuneRequest_of_openMove (h : (openMove g b).reply = some (.event e)) : e = .tuneRequest g := by
  unfold openMove at h
  split at h
  · cases h
  split at h
  · cases h
  unfold openSystemMove at h
  split at h <;> cases h
  rfl

/-- An event that a byte yields has the decoder's group, whatever the slot holds (R102). -/
theorem group_of_byteMove {slot : Option Builder} (h : (byteMove g slot b).reply = some (.event e)) : e.group = g := by
  cases hr : isRealtime b with
  | true =>
    rw [byteMove_realtime hr, Option.map_eq_some_iff] at h
    obtain ⟨k, -, he⟩ := h
    cases he
    rfl
  | false =>
    cases slot with
    | none =>
      rw [byteMove_none hr] at h
      rw [eq_tuneRequest_of_openMove h, Event.group]
    | some B => exact group_of_feedByte (byteMove_some hr ▸ h)

end group

/-! ## The obligations -/

/-- Settles O23: an iteration is its move, and the moves are the cells of the table. -/
theorem iterationIsTheTransitionTable : Obligations.IterationIsTheTransitionTable := by
  intro s
  rw [iterate_eq, table_eq_move]
  generalize move s.cfgGroup s.slot (peek s) = m
  cases hc : m.consumes <;> simp [applyMove, hc, Bool.and_comm]

/-- Settles O24: the move tells whether the byte is consumed; one that is not leaves no builder, and with no builder every byte is
consumed. -/
theorem cursorAdvancesByZeroOrOne : Obligations.CursorAdvancesByZeroOrOne := by
  refine ⟨fun s b hp ha => ⟨_, iterate_eq s, ?advances⟩, fun s b hp ha => ?stays, fun s hp => ⟨_, iterate_eq s, ?noByte⟩⟩
  case advances =>
    have hc := (advances_iff (g := s.cfgGroup)).1 ha
    rw [hp, move, applyMove_pos, if_pos hc]
  case stays =>
    have hc : (byteMove s.cfgGroup s.slot b).consumes = false := Bool.eq_false_iff.2 fun hc => ha (advances_iff.2 hc)
    obtain ⟨-, -, -, hslot⟩ := slot_of_not_consumes hc
    have hiter := iterate_eq s
    rw [hp, move] at hiter
    have hpeek := (peek_applyMove_of_not_consumes hc s).trans hp
    have hpos : (applyMove (byteMove s.cfgGroup s.slot b) s).pos = s.pos := by simp [hc]
    refine ⟨_, _, hiter, hpos, hslot, hpeek, iterate_eq _, ?_⟩
    rw [hpeek, move, applyMove_slot, hslot, applyMove_pos, if_pos (consumes_of_none _ b), hpos]
  case noByte =>
    rw [applyMove_pos, if_neg]
    intro hc
    obtain ⟨b, hb⟩ := exists_byte_of_move_consumes hc
    rw [hb] at hp
    obtain hp | hp := hp <;> cases hp

/-- Settles O25: a move answers at most once, and answering ends the pull; on a byte the answer is an event of the group. -/
theorem oneAnswerEndsThePull : Obligations.OneAnswerEndsThePull := by
  intro s t h
  rw [iterate_eq] at h
  cases h
  cases hr : (move s.cfgGroup s.slot (peek s)).reply with
  | none => exact .inl (by simp [hr])
  | some r =>
    refine .inr ⟨r, by simp [hr], by simp [hr], fun b hp => ?_⟩
    rw [hp, move] at hr
    obtain hnone | ⟨e, he⟩ := reply_of_byteMove s.cfgGroup s.slot b
    · rw [hnone] at hr; cases hr
    · rw [he] at hr; cases hr
      exact ⟨e, rfl, group_of_byteMove he⟩

/-- Settles O20: the decoder's turn in all its forms is one, over the agenda that is left. -/
theorem stepRunsTheDecodedInstruction : Obligations.StepRunsTheDecodedInstruction := by
  refine ⟨fun s rest b hp ht hb => ⟨wellFormed_decodeByte b, ?byte⟩, fun s rest => step_of_pulling,
    fun s rest => step_of_not_pulling, fun s rest e i ha hi => ?encode⟩
  case byte => exact (step_of_pulling hp ht).trans (iterate_of_byte (peek_of_read hb))
  case encode =>
    rw [step_encode ha, encoderTurn, hi]
    rfl

/-- Settles O21: an iteration on EMPTY answers `PENDING`, one on a byte answers an event if anything, and one on END an event or
EXHAUSTED. -/
theorem emptyAnswersPending : Obligations.EmptyAnswersPending := by
  refine ⟨fun s rest hp ht hb he => ?empty, fun s t h hout => ?only⟩
  case empty => exact (step_of_pulling hp ht).trans (iterate_of_empty (peek_of_empty hb he))
  case only =>
    rw [iterate_eq] at h
    cases h
    rw [applyMove_out, List.append_cancel_left_eq] at hout
    exact eq_empty_of_reply_pending (by simpa using hout)

/-- Settles O22: END makes its move, which looks only at whether the slot holds a sysex builder. -/
theorem endFlushesTheBuilder : Obligations.EndFlushesTheBuilder := by
  intro s rest hp ht hb he
  have hstep : step s = .next (applyMove (endMove s.cfgGroup s.slot) (popTurn rest s)) :=
    (step_of_pulling hp ht).trans (iterate_of_ended (peek_of_ended hb he))
  have hexhausted (h : ∀ x d, s.slot ≠ some (.sx x d)) :
      step s = .next { s with agenda := rest, slot := none, out := s.out ++ [.exhausted], pulling := false } := by
    rw [hstep, endMove_of_ne_sx _ h]
    rfl
  refine ⟨fun hs => ?none, fun x d hs => ?sysex, fun st p hs => ?cv, fun l hs => ?sp, fun w hs => ?sc⟩
  case sysex => rw [hstep, hs]; rfl
  case none =>
    rw [hexhausted (by rw [hs]; exact nofun), ← hs]
  all_goals exact hexhausted (by rw [hs]; exact nofun)

end Sys2Proof.Machine
end

section
/-! PROOFS. Progress (44_decoder_loop.md): every pull is answered within its bound (O26, R217), every stream is exhausted (O36, R220,
R222), and the order of turns changes no event (O41, R219, R221). -/

namespace Sys2Proof.Machine
open Sys2Proof.Stated

/-! ## A pull ends (R217) -/

/-- Only an iteration on a byte may leave the pull unanswered. -/
theorem exists_byte_of_reply_none {g : Byte} {slot : Option Builder} {p : Peek} (h : (move g slot p).reply = none) :
    ∃ b, p = .byte b := by
  cases p with
  | byte b => exact ⟨b, rfl⟩
  | empty => cases h
  | ended =>
    simp only [move, endMove] at h
    split at h <;> cases h

/-- One look at a byte is one look fewer to come: a consumed byte takes its two looks with it, and one that is not consumed leaves
no builder (R216). -/
theorem looksLeft_byteMove_lt (g b : Byte) (slot : Option Builder) (n : Nat) :
    looksLeft (if (byteMove g slot b).consumes then n else n + 1) (byteMove g slot b).slot < looksLeft (n + 1) slot := by
  cases hc : (byteMove g slot b).consumes with
  | true =>
    calc looksLeft n (byteMove g slot b).slot
      _ ≤ 2 * n + 1 := looksLeft_le _ _
      _ < 2 * (n + 1) := by omega
      _ ≤ looksLeft (n + 1) slot := le_looksLeft _ _
  | false =>
    obtain ⟨-, -, hsome, hnone⟩ := slot_of_not_consumes hc
    obtain ⟨B, rfl⟩ := Option.ne_none_iff_exists'.1 hsome
    rw [hnone]
    simp [looksLeft]

/-- The looks still to come over the bytes presented and not consumed. -/
def State.looksLeft (s : State) : Nat := Machine.looksLeft (s.src.bytes.length - s.pos) s.slot

/-- Where an iteration leaves the pull unanswered there are two looks or more to come, and after it fewer. -/
theorem looksLeft_iterate_lt {s : State} (h : Inv s) (hr : (move s.cfgGroup s.slot (peek s)).reply = none) :
    2 ≤ s.looksLeft ∧ (applyMove (move s.cfgGroup s.slot (peek s)) s).looksLeft < s.looksLeft := by
  obtain ⟨b, hb⟩ := exists_byte_of_reply_none hr
  obtain ⟨n, hn⟩ : ∃ n, s.src.bytes.length - s.pos = n + 1 :=
    Nat.exists_eq_add_one.2 (Nat.sub_pos_of_lt (pos_lt_of_peek_byte h hb))
  have htwo : 2 * (n + 1) ≤ looksLeft (n + 1) s.slot := le_looksLeft _ _
  have hrest : s.src.bytes.length - (applyMove (byteMove s.cfgGroup s.slot b) s).pos =
      if (byteMove s.cfgGroup s.slot b).consumes then n else n + 1 := by
    rw [applyMove_pos]; split <;> omega
  rw [hb]
  simp only [State.looksLeft, applyMove_src, move, hrest, hn, applyMove_slot]
  exact ⟨by omega, looksLeft_byteMove_lt _ b s.slot n⟩

/-- A pull is answered, once, within the looks still to come, or in one iteration where none is. -/
theorem exists_run_answered {s : State} (h : Inv s) (hp : s.pulling = true) (ha : s.agenda = []) :
    ∃ k t, k ≤ max 1 s.looksLeft ∧ Host.Core.run core k s = .next t ∧ t.pulling = false ∧ ∃ r, t.out = s.out ++ [r] := by
  induction hl : s.looksLeft using Nat.strong_induction_on generalizing s with
  | _ l ih =>
    have hst : step s = .next (applyMove (move s.cfgGroup s.slot (peek s)) s) := by
      rw [step_of_pulling hp (.inl ⟨ha, rfl⟩), popTurn_of_agenda_eq ha, iterate_eq]
    cases hr : (move s.cfgGroup s.slot (peek s)).reply with
    | some r => exact ⟨1, _, le_max_left _ _, run_succ hst, by simp [hr], r, by simp [hr]⟩
    | none =>
      obtain ⟨htwo, hlt⟩ := looksLeft_iterate_lt h hr
      obtain ⟨k, t, hk, hrun, hpt, hout⟩ := ih _ (hl ▸ hlt) h.iterate (by simp [hr, hp]) ha rfl
      exact ⟨k + 1, t, by omega, (run_succ hst).trans hrun, hpt, by simpa [hr] using hout⟩

/-! ## Runs -/

/-- What every step keeps, every run keeps. -/
theorem run_keeps {P : State → Prop} (hP : ∀ s t, P s → step s = .next t → P t) {k : Nat} {s t : State} (hs : P s)
    (hrun : Host.Core.run core k s = .next t) : P t := by
  induction k generalizing s with
  | zero => cases hrun; exact hs
  | succ k ih =>
    cases hst : step s with
    | next u => exact ih (hP s u hs hst) (run_succ hst ▸ hrun)
    | fault r => cases r
    | refused r =>
      have hst' : core.step s = .refused r := hst
      simp only [Host.Core.run, hst'] at hrun
      cases hrun

/-! ## What an iteration does to the events still to come -/

theorem peek_eq_ended_iff {s : State} : peek s = .ended ↔ s.src.read s.pos = none ∧ s.ended = true := by
  constructor
  · intro h
    unfold peek at h
    split at h
    · cases h
    · next hb =>
      split at h
      · next he => exact ⟨hb, he⟩
      · cases h
  · exact fun ⟨hb, he⟩ => peek_of_ended hb he

/-- At END no byte of a good state is left. -/
theorem drop_of_peek_ended {s : State} (h : Inv s) (hp : peek s = .ended) : s.src.bytes.drop s.pos = [] := by
  obtain ⟨hb, -⟩ := peek_eq_ended_iff.1 hp
  rw [read_of_inv h, List.getElem?_eq_none_iff] at hb
  exact List.drop_eq_nil_of_le hb

/-- A byte at the cursor of a good state is the first of those left. -/
theorem drop_of_peek_byte {s : State} (h : Inv s) {b : Byte} (hp : peek s = .byte b) :
    s.src.bytes.drop s.pos = b :: s.src.bytes.drop (s.pos + 1) := by
  have hlt := pos_lt_of_peek_byte h hp
  have hb : b = s.src.bytes[s.pos] := by
    unfold peek at hp
    rw [read_of_inv h, List.getElem?_eq_getElem hlt] at hp
    cases hp
    rfl
  rw [hb]
  exact List.drop_eq_getElem_cons hlt

/-- `EXHAUSTED` is the answer to END alone (R214, R215). -/
theorem eq_ended_of_reply_exhausted {g : Byte} {slot : Option Builder} {p : Peek}
    (h : (move g slot p).reply = some .exhausted) : p = .ended := by
  cases p with
  | ended => rfl
  | empty => cases h
  | byte b => obtain hr | ⟨e, hr⟩ := reply_of_byteMove g slot b <;> rw [move, hr] at h <;> cases h

/-- An iteration takes from the events still to come those it gives, whatever bytes are presented later; at END there are none. -/
theorem streamFrom_iterate {s : State} (h : Inv s) {more : List Byte} (hmore : s.ended = true → more = []) :
    streamFrom s.cfgGroup s.slot (s.src.bytes.drop s.pos ++ more) =
      eventsOf (move s.cfgGroup s.slot (peek s)).reply.toList ++
        streamFrom s.cfgGroup (move s.cfgGroup s.slot (peek s)).slot
          (s.src.bytes.drop (applyMove (move s.cfgGroup s.slot (peek s)) s).pos ++ more) := by
  cases hp : peek s with
  | byte b =>
    rw [drop_of_peek_byte h hp, List.cons_append, streamFrom_move, move, applyMove_pos]
    split
    · rfl
    · rw [drop_of_peek_byte h hp, List.cons_append]
  | empty => rfl
  | ended =>
    have hended := (peek_eq_ended_iff.1 hp).2
    simp [move, drop_of_peek_ended h hp, hmore hended, streamFrom, flush_endMove, flush]

/-! ## The events of a schedule (R219, R221) -/

/-- What holds all along a run of a decoder of group `g` whose agenda holds no reset. -/
structure OnSchedule (g : Byte) (s : State) : Prop where
  inv : Inv s
  group : s.cfgGroup = g
  noReset : Turn.reset ∉ s.agenda
  /-- the events given and those still to come are the events of the bytes presented, and before END of every continuation -/
  events : ∀ more, (s.ended = true → more = []) →
    streamFrom g none (s.src.bytes ++ more) = eventsOf s.out ++ streamFrom g s.slot (s.src.bytes.drop s.pos ++ more)
  /-- after EXHAUSTED nothing is to come -/
  exhausted : PullResult.exhausted ∈ s.out → peek s = .ended ∧ s.slot = none

namespace OnSchedule
variable {g : Byte} {s : State}

theorem start (g : Byte) {agenda : List Turn} (h : Turn.reset ∉ agenda) :
    OnSchedule g { State.reset with cfgGroup := g, agenda := agenda } where
  inv := { slot := nofun, canonical := rfl, dense := rfl, cursor := Nat.le_refl 0, events := nofun }
  group := rfl
  noReset := h
  events _ _ := rfl
  exhausted := nofun

/-- A turn that only takes itself off, or writes fields that play no part. -/
theorem congr {t : State} (h : OnSchedule g s) (hinv : Inv t) (hslot : t.slot = s.slot) (hpos : t.pos = s.pos)
    (hsrc : t.src = s.src) (hended : t.ended = s.ended) (hout : t.out = s.out) (hg : t.cfgGroup = s.cfgGroup)
    (hagenda : Turn.reset ∉ t.agenda) : OnSchedule g t where
  inv := hinv
  group := hg.trans h.group
  noReset := hagenda
  events := by rw [hslot, hpos, hsrc, hended, hout]; exact h.events
  exhausted := by rw [peek_congr hpos hsrc hended, hslot, hout]; exact h.exhausted

theorem popTurn (h : OnSchedule g s) {rest : List Turn} (hrest : Turn.reset ∉ rest) : OnSchedule g (popTurn rest s) :=
  h.congr (h.inv.popTurn rest) rfl rfl rfl rfl rfl rfl hrest

/-- An iteration gives the first of the events still to come. -/
theorem iterate (h : OnSchedule g s) : OnSchedule g (applyMove (move s.cfgGroup s.slot (peek s)) s) where
  inv := h.inv.iterate
  group := h.group
  noReset := h.noReset
  events more hmore := by
    obtain rfl := h.group
    rw [applyMove_src, h.events more hmore, streamFrom_iterate h.inv hmore, applyMove_out, eventsOf_append,
      List.append_assoc, applyMove_slot]
  exhausted hx := by
    have hp : peek s = .ended := by
      rw [applyMove_out, List.mem_append, Option.mem_toList] at hx
      exact hx.elim (fun hx => (h.exhausted hx).1) eq_ended_of_reply_exhausted
    rw [hp, move]
    exact ⟨(peek_applyMove_of_not_consumes (endMove_consumes _ _) s).trans hp, endMove_slot _ _⟩

/-- A byte presented is the first of a continuation, which there is only before END. -/
theorem present (h : OnSchedule g s) (he : s.ended = false) (b : Byte) {rest : List Turn} (hrest : Turn.reset ∉ rest) :
    OnSchedule g { s with agenda := rest, src := s.src.append b } where
  inv := h.inv.present b rest
  group := h.group
  noReset := hrest
  events more _ := by
    have hev := h.events (b :: more) (by simp [he])
    rw [bytes_append_of_inv h.inv, List.drop_append_of_le_length h.inv.cursor]
    simpa using hev
  exhausted hx := by
    have := (peek_eq_ended_iff.1 (h.exhausted hx).1).2
    simp [he] at this

/-- END leaves of the continuations the empty one. -/
theorem signalEnd (h : OnSchedule g s) : OnSchedule g (signalEnd s) where
  inv := h.inv.signalEnd
  group := h.group
  noReset := h.noReset
  events more hmore := h.events more fun _ => hmore rfl
  exhausted hx := by
    obtain ⟨hp, hslot⟩ := h.exhausted hx
    exact ⟨peek_eq_ended_iff.2 ⟨(peek_eq_ended_iff.1 hp).1, rfl⟩, hslot⟩

/-- Every step that answers a next state stays on the schedule. -/
theorem step {t : State} (h : OnSchedule g s) (hst : step s = .next t) : OnSchedule g t := by
  have htail {turn : Turn} {rest : List Turn} (ha : s.agenda = turn :: rest) : Turn.reset ∉ rest := fun hr =>
    h.noReset (ha ▸ List.mem_cons_of_mem _ hr)
  have hturn {rest : List Turn} (ha : rest = s.agenda ∨ s.agenda = .iterate :: rest) : Turn.reset ∉ rest :=
    ha.elim (fun ha => ha ▸ h.noReset) htail
  cases step_cases hst with
  | idle rest ha _ next => exact next ▸ h.popTurn (hturn ha)
  | iterate rest ha _ next => exact next ▸ (h.popTurn (hturn ha)).iterate
  | pull rest ha _ next =>
    have hpop := h.popTurn (htail ha)
    exact next ▸ hpop.congr hpop.inv.beginPull rfl rfl rfl rfl rfl rfl (htail ha)
  | encode rest _ _ bytes ha _ next =>
    have hpop := h.popTurn (htail ha)
    exact next ▸ hpop.congr (hpop.inv.deliver bytes) rfl rfl rfl rfl rfl rfl (htail ha)
  | present rest b ha he next => exact next ▸ h.present he b (htail ha)
  | finish rest ha next => exact next ▸ (h.popTurn (htail ha)).signalEnd
  | reset rest ha _ => exact absurd (ha ▸ List.mem_cons_self) h.noReset

end OnSchedule

/-! ## The obligations -/

/-- Settles O26: an iteration that gives no answer leaves fewer looks to come, and there are `2n + 1` at most. -/
theorem pullEndsWithinItsBound : Obligations.PullEndsWithinItsBound := by
  intro s h hp ha
  obtain ⟨k, t, hk, hrun⟩ := exists_run_answered h hp ha
  have hbound : s.looksLeft ≤ 2 * (s.src.bytes.length - s.pos) + 1 := looksLeft_le _ _
  exact ⟨k, t, by omega, hrun⟩

/-- Settles O36: the run behind `decodeStream` is followed to its end by `run_decodeStream`. -/
theorem everyStreamIsExhausted : Obligations.EveryStreamIsExhausted := by
  intro g bytes
  obtain ⟨t, hrun, hstream, hp, hslot, hpos, hlast, hevents⟩ := run_decodeStream g bytes
  exact ⟨t, hrun, hstream.agenda, hp, hslot, hpos, hlast, hevents.trans (decodeStream_eq g bytes).symm⟩

/-- Settles O41: along every run without reset the events given, and those the slot and the bytes left still hold, are the events of
the bytes presented and of every continuation; after EXHAUSTED nothing is left. -/
theorem scheduleDoesNotChangeTheEvents : Obligations.ScheduleDoesNotChangeTheEvents := by
  intro g agenda k t hreset hrun
  have ht : OnSchedule g t := run_keeps (fun _ _ => OnSchedule.step) (OnSchedule.start g hreset) hrun
  have hnow := ht.events [] fun _ => rfl
  simp only [List.append_nil] at hnow
  simp only [decodeStream_eq]
  refine ⟨⟨_, hnow⟩, fun hx => ?exhausted, fun he more => ⟨_, ht.events more (by simp [he])⟩⟩
  case exhausted =>
    obtain ⟨hp, hslot⟩ := ht.exhausted hx
    rw [hnow, drop_of_peek_ended ht.inv hp, hslot]
    simp [streamFrom, flush]

end Sys2Proof.Machine
end

section
/-! PROOFS. The silent conditions (60_exceptions.md R230 to R234): the label an iteration raises tells its move (O27). What each
table of labels can answer is said first, then the move of each case. -/

namespace Sys2Proof.Machine
open Sys2Proof.Stated

/-! ## When a condition is raised -/

section labels
variable {B : Builder} {b : Byte} {done : Bool} {c : Condition}

/-- Feeding a byte raises a condition only for a status byte: TRUNCATION for every builder but a sysex one, SYSEX_INTERRUPTION for
that one, unless the byte is its terminator (R231, R233). -/
theorem raisedByFeed_eq_some (h : raisedByFeed B b done = some c) : isData b = false ∧
    ((c = .truncation ∧ ∀ x d, B ≠ .sx x d) ∨ (c = .sysexInterruption ∧ b ≠ 0xF7#8 ∧ ∃ x d, B = .sx x d)) := by
  unfold raisedByFeed at h
  cases hd : isData b with
  | true => rw [hd, if_pos rfl] at h; cases h
  | false =>
    refine ⟨rfl, ?_⟩
    rw [hd, if_neg Bool.false_ne_true] at h
    cases B with
    | cv st p =>
      have hc : c = .truncation := by rcases p with _ | ⟨_ | d1⟩ <;> cases done <;> cases h <;> rfl
      exact .inl ⟨hc, nofun⟩
    | sx x d =>
      dsimp only at h
      split_ifs at h with h7
      cases h
      exact .inr ⟨rfl, h7, x, d, rfl⟩
    | sp l => cases h; exact .inl ⟨rfl, nofun⟩
    | sc w => cases h; exact .inl ⟨rfl, nofun⟩

/-- A byte met with no builder raises RESERVED_BYTE or nothing: the bytes 0x80 to 0xEF all have a kind (R232, R234). -/
theorem raisedByOpening_eq_some (h : raisedByOpening b = some c) :
    c = .reservedByte ∧ (b = 0xF4#8 ∨ b = 0xF5#8 ∨ b = 0xF7#8) := by
  unfold raisedByOpening at h
  split_ifs at h with hd hlt hk hres
  · have hge : ¬b < 0x80#8 := fun hb => hd (isData_iff.2 hb)
    exact (kindOf_eq_none_iff.1 hk).elim (absurd · hge) fun hF0 => absurd hlt (BitVec.not_lt.2 hF0)
  · cases h
    exact ⟨rfl, hres⟩

/-- END raises what any interrupting status byte raises. -/
theorem raised_ended_some : raised (some B) .ended done = raisedByFeed B 0xF0#8 done := by
  rcases B with ⟨st, _ | ⟨_ | d1⟩⟩ | ⟨x, d⟩ | l | w <;> rfl

end labels

/-! ## What a condition tells of the move -/

/-- The moves under each label, from the slot before; there is none under UNKNOWN_KIND (R231 to R234). A truncation at END still
answers the pull, with no event (R215). -/
inductive ConditionMove (g : Byte) : Option Builder → Condition → Move → Prop where
  | truncation {slot : Option Builder} {reply : Option PullResult} (noEvent : eventsOf reply.toList = []) :
      ConditionMove g slot .truncation ⟨false, none, reply⟩
  | reservedByte {slot : Option Builder} : ConditionMove g slot .reservedByte ⟨true, slot, none⟩
  | sysexInterruption (x : Bool) (d : List Byte) :
      ConditionMove g (some (.sx x d)) .sysexInterruption ⟨false, none, some (.event (.sysex g (openKind x) d))⟩

section moves
variable {g b : Byte} {B : Builder} {slot : Option Builder} {p : Peek} {done : Bool} {c : Condition}

theorem lostColumn_of_ne_sx (h : ∀ x d, B ≠ .sx x d) : lostColumn g B = none := by
  cases B with
  | sx x d => exact absurd rfl (h x d)
  | _ => rfl

theorem lostColumn_sx (x : Bool) (d : List Byte) : lostColumn g (.sx x d) = some (.event (.sysex g (openKind x) d)) := by
  cases x <;> rfl

theorem conditionMove_feed (h : raisedByFeed B b done = some c) :
    ConditionMove g (some B) c (feedMove (feedByte g B b)) := by
  obtain ⟨hd, ⟨rfl, hB⟩ | ⟨rfl, h7, x, d, rfl⟩⟩ := raisedByFeed_eq_some h
  · rw [feedMove_eq_lostColumn hd fun ⟨_, x, d, hsx⟩ => hB x d hsx, lostColumn_of_ne_sx hB]
    exact .truncation rfl
  · rw [feedMove_eq_lostColumn hd fun hterm => h7 hterm.1, lostColumn_sx]
    exact .sysexInterruption x d

theorem conditionMove_open (h : raisedByOpening b = some c) : ConditionMove g none c (openMove g b) := by
  obtain ⟨rfl, rfl | rfl | rfl⟩ := raisedByOpening_eq_some h <;> exact .reservedByte

theorem conditionMove_end (h : raised slot .ended done = some c) : ConditionMove g slot c (endMove g slot) := by
  cases slot with
  | none => cases h
  | some B =>
    rw [raised_ended_some] at h
    obtain ⟨-, ⟨rfl, hB⟩ | ⟨rfl, -, x, d, rfl⟩⟩ := raisedByFeed_eq_some h
    · rw [endMove_of_ne_sx g fun x d hsx => hB x d (Option.some.inj hsx)]
      exact .truncation rfl
    · exact .sysexInterruption x d

theorem conditionMove_byte (h : raised slot (.byte b) done = some c) : ConditionMove g slot c (byteMove g slot b) := by
  cases hr : isRealtime b with
  | true =>
    simp only [raised, hr, if_true] at h
    split_ifs at h with hres
    cases h
    rw [byteMove_realtime hr, hres]
    exact .reservedByte
  | false =>
    simp only [raised, hr, Bool.false_eq_true, if_false] at h
    cases slot with
    | none => exact byteMove_none hr ▸ conditionMove_open h
    | some B => exact byteMove_some hr ▸ conditionMove_feed h

/-- A raised condition tells the iteration's move. -/
theorem conditionMove_of_raised (h : raised slot p done = some c) : ConditionMove g slot c (move g slot p) := by
  cases p with
  | byte b => exact conditionMove_byte h
  | empty => cases h
  | ended => exact conditionMove_end h

end moves

/-! ## The obligation -/

/-- Settles O27: the iteration makes a move of its label, and the move says what becomes of slot, cursor and answers. -/
theorem conditionsTellTheirEffect : Obligations.ConditionsTellTheirEffect := by
  intro s done c h
  have hmove := conditionMove_of_raised (g := s.cfgGroup) h
  have hiter := iterate_eq s
  generalize move s.cfgGroup s.slot (peek s) = m at hmove hiter
  generalize s.slot = slot at hmove ⊢
  cases hmove with
  | truncation noEvent =>
    refine ⟨nofun, _, hiter, fun _ => ⟨rfl, rfl, ?events⟩, nofun, nofun⟩
    case events => rw [applyMove_out, eventsOf_append, noEvent, List.append_nil]
  | reservedByte => exact ⟨nofun, _, hiter, nofun, fun _ => ⟨rfl, rfl, List.append_nil _, rfl⟩, nofun⟩
  | sysexInterruption x d => exact ⟨nofun, _, hiter, nofun, nofun, fun _ => ⟨x, d, rfl, rfl, rfl, rfl⟩⟩

end Sys2Proof.Machine
end

section
/-! PROOFS. Reset and what it drops (70_reset_and_hazards.md): the whole next state of a reset turn (O28). -/

namespace Sys2Proof.Machine

/-- A reset turn resets the decoder (R260), whatever it holds and whether or not a pull is in progress. -/
theorem step_reset {s : State} {rest : List Turn} (ha : s.agenda = .reset :: rest) :
    step s = .next (resetDecoder (popTurn rest s)) := by
  simp [step, ha]

/-- Settles O28: the state `step_reset` names is the one stated, field by field; no answer is added. -/
theorem resetDropsTheBuilder : Obligations.ResetDropsTheBuilder := by
  intro s rest ha
  calc step s = .next (resetDecoder (popTurn rest s)) := step_reset ha
    _ = .next { s with slot := none, pos := 0, src := [], ended := false, agenda := rest } := rfl

end Sys2Proof.Machine
end

section
/-! PROOFS. Instruction words (30_encoding.md section 2, 41_encoder.md): decoding gives back what was encoded (O5), encoding gives
back what was decoded (O6), and words written out bit by bit (O1). -/

namespace Sys2Proof
open Sys2Proof.Machine

/-! ## Decoding the encoding -/

/-- A decoder instruction is what some byte decodes to, and that byte is its encoding. -/
theorem decode_encode_of_dec {i : Instr} (h : i.codec = .dec) : decode i.codec (encode i) = .instr i [] := by
  obtain ⟨b, rfl⟩ := exists_decodeByte_of_codec h
  rw [codec_decodeByte, encode_decodeByte, decode]

/-- An encoder operation, by its output pattern. -/
theorem decode_encode_of_enc {i : Instr} (h : i.codec = .enc) (hwf : i.wellFormed = true) :
    decode i.codec (encode i) = .instr i [] := by
  cases i with
  | encNoteOff ch a b => exact Laws.RoundTrip.encNoteOff ch a b hwf
  | encNoteOn ch a b => exact Laws.RoundTrip.encNoteOn ch a b hwf
  | encPolyPressure ch a b => exact Laws.RoundTrip.encPolyPressure ch a b hwf
  | encControlChange ch a b => exact Laws.RoundTrip.encControlChange ch a b hwf
  | encProgramChange ch a => exact Laws.RoundTrip.encProgramChange ch a hwf
  | encChannelPressure ch a => exact Laws.RoundTrip.encChannelPressure ch a hwf
  | encPitchBend ch a b => exact Laws.RoundTrip.encPitchBend ch a b hwf
  | encSysexComplete d => exact Laws.RoundTrip.encSysexComplete d hwf
  | encSysexStart d => exact Laws.RoundTrip.encSysexStart d hwf
  | encSysexContinue d => exact Laws.RoundTrip.encSysexContinue d hwf
  | encSysexEnd d => exact Laws.RoundTrip.encSysexEnd d hwf
  | encMtcQuarterFrame | encSongPosition | encSongSelect | encTuneRequest => rfl
  | encTimingClock | encRtStart | encRtContinue | encRtStop | encActiveSensing | encRtReset => rfl
  | _ => cases h

/-! ## Encoding the decoded -/

/-- An instruction read by unit `u`: it is the unit's, it is well-formed, and its encoding and the rest are the bytes read. -/
structure ReadBy (u : Codec) (bytes : List Byte) (i : Instr) (rest : List Byte) : Prop where
  codec : i.codec = u
  wellFormed : i.wellFormed = true
  bytes : encode i ++ rest = bytes

/-- What is read with nothing left over is read with any bytes after it. -/
theorem ReadBy.append {u : Codec} {bytes : List Byte} {i : Instr} (h : ReadBy u bytes i []) (rest : List Byte) :
    ReadBy u (bytes ++ rest) i rest :=
  ⟨h.codec, h.wellFormed, by rw [← h.bytes, List.append_nil]⟩

/-- An operation with two 8-bit fields, once its output pattern is known to begin with `b`. -/
theorem readBy_of_decodeTwo {b : Byte} {op : Byte → Byte → Instr} {bs rest : List Byte} {i : Instr}
    (h : decodeTwo b op bs = .instr i rest) (hop : ∀ x y, ReadBy .enc [b, x, y] (op x y) []) :
    ReadBy .enc (b :: bs) i rest := by
  unfold decodeTwo at h
  split at h <;> cases h
  next x y => exact (hop x y).append rest

/-- The same with one field. -/
theorem readBy_of_decodeOne {b : Byte} {op : Byte → Instr} {bs rest : List Byte} {i : Instr}
    (h : decodeOne b op bs = .instr i rest) (hop : ∀ x, ReadBy .enc [b, x] (op x) []) : ReadBy .enc (b :: bs) i rest := by
  unfold decodeOne at h
  split at h <;> cases h
  next x => exact (hop x).append rest

/-- The leading data bytes, the 0xF7 that follows them, and the rest. -/
theorem splitData_terminated {bytes rest : List Byte} (h : (splitData bytes).2 = 0xF7#8 :: rest) :
    ((splitData bytes).1 ++ [0xF7#8]) ++ rest = bytes := by
  rw [List.append_assoc, List.singleton_append, ← h, splitData_append]

/-- A fragment without 0xF0: its payload is the leading data bytes, and what follows is 0xF7 or stays. -/
theorem readBy_of_decodeBare {bytes rest : List Byte} {i : Instr} (h : decodeBare bytes = .instr i rest) :
    ReadBy .enc bytes i rest := by
  unfold decodeBare at h
  split at h <;> cases h
  case h_1 hterm => exact ⟨rfl, splitData_all bytes, splitData_terminated hterm⟩
  case h_2 => exact ⟨rfl, splitData_all bytes, splitData_append bytes⟩

/-- A fragment after its 0xF0. -/
theorem readBy_of_decodeBracketed {bytes rest : List Byte} {i : Instr} (h : decodeBracketed bytes = .instr i rest) :
    ReadBy .enc (0xF0#8 :: bytes) i rest := by
  unfold decodeBracketed at h
  split at h <;> cases h
  case h_1 hterm => exact ⟨rfl, splitData_all bytes, congrArg (0xF0#8 :: ·) (splitData_terminated hterm)⟩
  case h_2 => exact ⟨rfl, splitData_all bytes, congrArg (0xF0#8 :: ·) (splitData_append bytes)⟩

/-- A system byte whose low nibble has this value. -/
theorem eq_of_lowNibble_toNat {b : Byte} {n : Nat} (hd : isData b = false) (hk : kindOf b = none)
    (h : (lowNibble b).toNat = n) : b = 0xF#4 ++ BitVec.ofNat 4 n := by
  rw [← h, BitVec.ofNat_toNat, BitVec.setWidth_eq]
  exact system_of_unknown hd hk

theorem readBy_of_decodeSystemOutput {b : Byte} {bs rest : List Byte} {i : Instr} (hd : isData b = false)
    (hk : kindOf b = none) (h : decodeSystemOutput b bs = .instr i rest) : ReadBy .enc (b :: bs) i rest := by
  unfold decodeSystemOutput at h
  split at h
  case h_13 => cases h
  all_goals
    rename_i hn
    obtain rfl := eq_of_lowNibble_toNat hd hk hn
  case h_1 => exact readBy_of_decodeBracketed h
  case h_2 => exact readBy_of_decodeOne h fun _ => ⟨rfl, rfl, rfl⟩
  case h_3 => exact readBy_of_decodeTwo h fun _ _ => ⟨rfl, rfl, rfl⟩
  case h_4 => exact readBy_of_decodeOne h fun _ => ⟨rfl, rfl, rfl⟩
  all_goals cases h; exact ⟨rfl, rfl, rfl⟩

/-- What the encoder's unit reads, by the format of the first byte (R60 to R62). -/
theorem readBy_of_decodeOutput {bytes rest : List Byte} {i : Instr} (h : decodeOutput bytes = .instr i rest) :
    ReadBy .enc bytes i rest := by
  cases bytes with
  | nil => exact readBy_of_decodeBare h
  | cons b bs =>
    cases hd : isData b with
    | true =>
      rw [decodeOutput, if_pos hd] at h
      exact readBy_of_decodeBare h
    | false =>
      rw [decodeOutput, if_neg (by simp [hd])] at h
      cases hk : kindOf b with
      | none =>
        rw [hk] at h
        exact readBy_of_decodeSystemOutput hd hk h
      | some k =>
        have two (x y : Byte) : [k.nibble ++ lowNibble b, x, y] ++ [] = [b, x, y] := by rw [status_of_kindOf hk]; rfl
        have one (x : Byte) : [k.nibble ++ lowNibble b, x] ++ [] = [b, x] := by rw [status_of_kindOf hk]; rfl
        rw [hk] at h
        cases k
        case programChange | channelPressure => exact readBy_of_decodeOne h fun x => ⟨rfl, rfl, one x⟩
        all_goals exact readBy_of_decodeTwo h fun x y => ⟨rfl, rfl, two x y⟩

theorem readBy_of_decode {u : Codec} {bytes rest : List Byte} {i : Instr} (h : decode u bytes = .instr i rest) :
    ReadBy u bytes i rest := by
  cases u with
  | enc => exact readBy_of_decodeOutput h
  | dec =>
    cases bytes <;> cases h
    next b => exact ⟨codec_decodeByte b, wellFormed_decodeByte b, by rw [encode_decodeByte]; rfl⟩

/-! ## The obligations -/

/-- Settles O5, by the instruction's unit. -/
theorem decodeOfEncodeIsTheInstruction : Obligations.DecodeOfEncodeIsTheInstruction := by
  intro i hwf
  cases hc : i.codec with
  | dec => exact hc ▸ decode_encode_of_dec hc
  | enc => exact hc ▸ decode_encode_of_enc hc hwf

/-- Settles O6: every branch of the two decoders reads off the pattern that the encoding writes. -/
theorem encodeOfDecodeIsTheBytes : Obligations.EncodeOfDecodeIsTheBytes := by
  intro u bytes rest i h
  obtain ⟨hcodec, hwf, hbytes⟩ := readBy_of_decode h
  exact ⟨hcodec, hwf, hbytes⟩

/-- Settles O1: each word is a closed term that the decoder evaluates. -/
theorem writtenOutWordsDecode : Obligations.WrittenOutWordsDecode := by
  unfold Obligations.WrittenOutWordsDecode
  decide

end Sys2Proof
end

section
/-! PROOFS. The source's test properties E3 to E8 (95_test_vectors.md section 1), for every data value, channel and payload (O42).
Each is read off byte by byte, through `decodeStream_eq`. -/

namespace Sys2Proof.Machine
open Sys2Proof.Stated

section bytes
variable {g : Byte}

/-- The first of two data bytes is kept in the builder (R184). -/
theorem streamFrom_firstByte {a : Byte} (h : isData a = true) (st : Byte) (bs : List Byte) :
    streamFrom g (some (.cv st (.two none))) (a :: bs) = streamFrom g (some (.cv st (.two (some (dataValue a))))) bs := by
  rw [streamFrom_feeds h, feedByte_data h]
  rfl

/-- The second completes the message, and the builder keeps the status (R185 to R187). -/
theorem streamFrom_secondByte {b : Byte} (h : isData b = true) (st : Byte) (d1 : Septet) (bs : List Byte) :
    streamFrom g (some (.cv st (.two (some d1)))) (b :: bs) =
      secondByteEvent g st d1 b :: streamFrom g (some (.cv st (.two none))) bs := by
  rw [streamFrom_feeds h, feedByte_data h]
  rfl

/-- A status byte opens its own message, and a channel-voice message in progress is lost without a trace (R151, R181). -/
theorem streamFrom_status {st : Byte} {k : CvKind} (hk : kindOf st = some k) {slot : Option Builder}
    (hslot : slot = none ∨ ∃ st' p, slot = some (.cv st' p)) (bs : List Byte) :
    streamFrom g slot (st :: bs) = streamFrom g (some (.cv st (Progress.fresh k.need))) bs := by
  rw [streamFrom, takeByte_channelVoice hk hslot, List.nil_append]

/-- A status byte hands over a sysex fragment in progress and is then looked at with no builder (R190, R233, R239). -/
theorem streamFrom_sysex_interrupted {b : Byte} (hd : isData b = false) (hr : isRealtime b = false) (h7 : b ≠ 0xF7#8)
    (x : Bool) (d bs : List Byte) :
    streamFrom g (some (.sx x d)) (b :: bs) = .sysex g (openKind x) d :: streamFrom g none (b :: bs) := by
  rw [streamFrom_move, byteMove_some hr, feedByte_status hd]
  simp only [if_neg h7]
  rfl

/-- A realtime reset stands between two bytes of anything, and changes nothing but the events (R69, R149). -/
theorem streamFrom_rtReset (slot : Option Builder) (bs : List Byte) :
    streamFrom g slot (0xFF#8 :: bs) = .realtime g .rtReset :: streamFrom g slot bs :=
  streamFrom_realtime slot rfl bs

/-- The five reserved bytes are dropped where no builder is in progress (R72, R143, R147, R163, R164, R166). -/
theorem takeByte_reserved (g : Byte) : ∀ r ∈ [0xF4#8, 0xF5#8, 0xF7#8, 0xF9#8, 0xFD#8], takeByte g none r = (none, []) := by
  simp only [List.forall_mem_cons]
  exact ⟨rfl, rfl, rfl, rfl, rfl, nofun⟩

end bytes

section note
variable (g v : Byte) (ch : Nibble)

theorem kindOf_noteOff : kindOf (0x8#4 ++ ch) = some .noteOff := kindOf_status .noteOff ch

theorem kindOf_noteOn : kindOf (0x9#4 ++ ch) = some .noteOn := kindOf_status .noteOn ch

/-- A note-off's fields are as given (R185). -/
theorem secondByteEvent_noteOff {n : Byte} (hn : isData n = true) :
    secondByteEvent g (0x8#4 ++ ch) (dataValue n) v = .channelVoice g (0x8#4 ++ ch) n (some v) := by
  simp [secondByteEvent, dataField_dataValue hn]

/-- A note-on of velocity 0 is a note-off of the same channel with velocity 0x40 (R186). -/
theorem secondByteEvent_noteOn_zero {n : Byte} (hn : isData n = true) :
    secondByteEvent g (0x9#4 ++ ch) (dataValue n) 0x00#8 = .channelVoice g (0x8#4 ++ ch) n (some 0x40#8) := by
  have hstatus : 0x80#8 ||| ((0x9#4 ++ ch : Byte) &&& 0xF#8) = 0x8#4 ++ ch :=
    calc status .noteOff (0x9#4 ++ ch) = 0x8#4 ++ lowNibble (0x9#4 ++ ch) := status_eq_append .noteOff _
      _ = 0x8#4 ++ ch := by rw [lowNibble_append]
  simp [secondByteEvent, dataField_dataValue hn, hstatus]

/-- A note-off status byte where no builder is in progress, or one of a channel-voice message (R151, R152). -/
theorem streamFrom_noteOff_status {slot : Option Builder} (hslot : slot = none ∨ ∃ st p, slot = some (.cv st p))
    (bs : List Byte) :
    streamFrom g slot ((0x8#4 ++ ch) :: bs) = streamFrom g (some (.cv (0x8#4 ++ ch) (.two none))) bs :=
  streamFrom_status (kindOf_noteOff ch) hslot bs

/-- Two data bytes under a note-off status are one note-off, and the status stays (R185, R187). -/
theorem streamFrom_noteOff_data {n v : Byte} (hn : isData n = true) (hv : isData v = true) (bs : List Byte) :
    streamFrom g (some (.cv (0x8#4 ++ ch) (.two none))) (n :: v :: bs) =
      .channelVoice g (0x8#4 ++ ch) n (some v) :: streamFrom g (some (.cv (0x8#4 ++ ch) (.two none))) bs := by
  rw [streamFrom_two hn hv, secondByteEvent_noteOff g v ch hn]

/-- A whole note-off message. -/
theorem streamFrom_noteOff {n v : Byte} (hn : isData n = true) (hv : isData v = true) {slot : Option Builder}
    (hslot : slot = none ∨ ∃ st p, slot = some (.cv st p)) (bs : List Byte) :
    streamFrom g slot ((0x8#4 ++ ch) :: n :: v :: bs) =
      .channelVoice g (0x8#4 ++ ch) n (some v) :: streamFrom g (some (.cv (0x8#4 ++ ch) (.two none))) bs := by
  rw [streamFrom_noteOff_status g ch hslot, streamFrom_noteOff_data g ch hn hv]

end note

/-! ## The obligation -/

/-- Settles O42, property by property. -/
theorem sourceTestProperties : Obligations.SourceTestProperties := by
  intro g n v n' v' ch ch' d hn hv hn' hv' hd
  rw [← isData_iff] at hn hv hn' hv'
  have hpayload : d.all isData = true := List.all_eq_true.2 fun b hb => isData_iff.2 (hd b hb)
  simp only [decodeStream_eq]
  refine ⟨?runningStatus, ?realtime, ?truncation, ?resynchronisation, ?zeroVelocity, ?sysex, fun r hr => ?reserved⟩
  case runningStatus =>
    rw [streamFrom_noteOff g ch hn hv (.inl rfl), streamFrom_noteOff_data g ch hn' hv']
    rfl
  case realtime =>
    rw [streamFrom_noteOff_status g ch (.inl rfl), streamFrom_rtReset, streamFrom_firstByte hn, streamFrom_rtReset,
      streamFrom_secondByte hv, secondByteEvent_noteOff g v ch hn]
    rfl
  case truncation =>
    rw [streamFrom_noteOff_status g ch (.inl rfl), streamFrom_firstByte hn]
    rfl
  case resynchronisation =>
    rw [streamFrom_noteOff_status g ch (.inl rfl), streamFrom_firstByte hn,
      streamFrom_noteOff g ch' hn' hv' (.inr ⟨_, _, rfl⟩)]
    rfl
  case zeroVelocity =>
    rw [streamFrom_status (kindOf_noteOn ch) (.inl rfl), CvKind.need, Progress.fresh, streamFrom_two hn rfl,
      secondByteEvent_noteOn_zero g ch hn]
    rfl
  case sysex =>
    rw [List.cons_append, streamFrom_opens (B := .sx true []) rfl, streamFrom_sysex_append hpayload,
      streamFrom_sysex_interrupted (isData_of_kindOf (kindOf_noteOff ch)) (isRealtime_of_kindOf (kindOf_noteOff ch))
        (status_ne_sysexEnd .noteOff ch), streamFrom_noteOff g ch hn hv (.inl rfl)]
    rfl
  case reserved =>
    rw [streamFrom, takeByte_reserved g r hr, streamFrom_noteOff g ch hn hv (.inl rfl)]
    rfl

end Sys2Proof.Machine
end
